-- ==== Sys2Proof/Word.lean ====
section
/-! DEFINITION. The word types of the block: a 32-bit command word or register (R72, R26, R29), a byte, the 1023
wires of the data port, which is also the widest BitString (R22, R70), and a 32-byte hash (R35). -/
namespace Sys2Proof

/-- A 32-bit command word, result register or CRC register; bit 0 is the least significant (R10). -/
abbrev Word := BitVec 32

/-- One byte. -/
abbrev Byte := BitVec 8

/-- Up to 1023 bits in STREAM order: bit `i` of the vector is `BS[i]` (R9), or wire `BS_IN[i]` of the data port (R70).
It is never read as one number: `uintAt` reads fields of it, the lowest stream offset most significant (R53). -/
abbrev Bits := BitVec 1023

/-- A 32-byte hash of a pruned entry, byte 0 first (R35). -/
abbrev Hash := Vector Byte 32

end Sys2Proof
end

