-- ==== Sys2Proof/Syntax.lean ====
section
/-! DEFINITION. The commands of the block, one constructor per row of spec/opcode_table.json (R76), their operands the
fields of the command word at the widths of R73, and the ways a word can be reserved (R77). -/
namespace Sys2Proof

/-- One command. Every field is an unsigned number taken as it stands in the word (R74). -/
inductive Instr where
  /-- RD.INIT: latch a BitString of `len` bits from the data port (R101). -/
  | rdInit (len : BitVec 10)
  /-- RD.UINT: read an unsigned integer of `wid` bits at the cursor (R102). -/
  | rdUint (wid : BitVec 6)
  /-- RD.BUF: read `nby` bytes at the cursor (R103). -/
  | rdBuf (nby : BitVec 7)
  /-- RD.REM: the number of bits remaining (R104). -/
  | rdRem
  /-- RD.LEN: the total length of the latched BitString (R105). -/
  | rdLen
  /-- LM.LEVEL: the level of a LevelMask value (R133). -/
  | lmLevel (val : BitVec 8)
  /-- LM.APPLY: the value with the bits above position `apn` cleared (R134). -/
  | lmApply (val : BitVec 8) (apn : BitVec 3)
  /-- LM.HASHCOUNT: the number of set bits of a value (R135). -/
  | lmHashcount (val : BitVec 8)
  /-- CRC.INIT: start a checksum (R153). -/
  | crcInit
  /-- CRC.UPDATE: take one input byte (R154). -/
  | crcUpdate (byte : BitVec 8)
  /-- CRC.FINAL: produce the checksum of the bytes taken since CRC.INIT (R155). -/
  | crcFinal
  /-- PR.DECODE: validate and decode the latched BitString as a pruned-branch cell with `refs` references (R170). -/
  | prDecode (refs : BitVec 3)
  deriving DecidableEq, Repr

/-- Why a command word is reserved: the three cases R77 lists. All three are the one refusal `REF_RESERVED`;
which case it is, is a detail the model records (log 18, DESIGN CHOICE). -/
inductive Reserved where
  /-- `UNIT` is 4..15 (R77). -/
  | unit
  /-- `FUNC` is not assigned in this `UNIT` (R77). -/
  | func
  /-- `UNIT` and `FUNC` name a command, but a must-be-zero bit of its format (R73) is set (R77). -/
  | mustBeZero
  deriving DecidableEq, Repr

/-- The command belongs to the CRC unit (R2). -/
def Instr.isCrc : Instr → Bool
  | .crcInit => true
  | .crcUpdate _ => true
  | .crcFinal => true
  | .rdInit _ => false
  | .rdUint _ => false
  | .rdBuf _ => false
  | .rdRem => false
  | .rdLen => false
  | .lmLevel _ => false
  | .lmApply _ _ => false
  | .lmHashcount _ => false
  | .prDecode _ => false

end Sys2Proof
end

