-- ==== Sys2Proof/Decode.lean ====
section
/-! DEFINITION. The command map of R76: decoding a 32-bit command word by its match and mask, naming why a reserved
word is reserved (R77), and the encoder of the same formats (R73). -/
namespace Sys2Proof

/-- The `UNIT` field, `C[31:28]` (R72). -/
def unitField (c : Word) : BitVec 4 := c.extractLsb' 28 4

/-- The `FUNC` field, `C[27:24]` (R72). -/
def funcField (c : Word) : BitVec 4 := c.extractLsb' 24 4

/-- One row of the command map: a word `C` is this command exactly when `C &&& mask = pat` (R76). `read` takes the
operand fields out of it, at the bit positions of its format (R73). -/
structure Row where
  /-- the `match` column -/
  pat : Word
  /-- the `mask` column -/
  mask : Word
  /-- the command, with its operand fields -/
  read : Word → Instr

/-- RD.INIT, format L. -/
def rowRdInit : Row := ⟨0x00000000#32, 0xFFFFFC00#32, fun c => .rdInit (c.extractLsb' 0 10)⟩
/-- RD.UINT, format U. -/
def rowRdUint : Row := ⟨0x01000000#32, 0xFFFFFFC0#32, fun c => .rdUint (c.extractLsb' 0 6)⟩
/-- RD.BUF, format B. -/
def rowRdBuf : Row := ⟨0x02000000#32, 0xFFFFFF80#32, fun c => .rdBuf (c.extractLsb' 0 7)⟩
/-- RD.REM, format N. -/
def rowRdRem : Row := ⟨0x03000000#32, 0xFFFFFFFF#32, fun _ => .rdRem⟩
/-- RD.LEN, format N. -/
def rowRdLen : Row := ⟨0x04000000#32, 0xFFFFFFFF#32, fun _ => .rdLen⟩
/-- LM.LEVEL, format V. -/
def rowLmLevel : Row := ⟨0x10000000#32, 0xFFFFFF00#32, fun c => .lmLevel (c.extractLsb' 0 8)⟩
/-- LM.APPLY, format VA. -/
def rowLmApply : Row :=
  ⟨0x11000000#32, 0xFFFFF800#32, fun c => .lmApply (c.extractLsb' 0 8) (c.extractLsb' 8 3)⟩
/-- LM.HASHCOUNT, format V. -/
def rowLmHashcount : Row := ⟨0x12000000#32, 0xFFFFFF00#32, fun c => .lmHashcount (c.extractLsb' 0 8)⟩
/-- CRC.INIT, format N. -/
def rowCrcInit : Row := ⟨0x20000000#32, 0xFFFFFFFF#32, fun _ => .crcInit⟩
/-- CRC.UPDATE, format Y. -/
def rowCrcUpdate : Row := ⟨0x21000000#32, 0xFFFFFF00#32, fun c => .crcUpdate (c.extractLsb' 0 8)⟩
/-- CRC.FINAL, format N. -/
def rowCrcFinal : Row := ⟨0x22000000#32, 0xFFFFFFFF#32, fun _ => .crcFinal⟩
/-- PR.DECODE, format R. -/
def rowPrDecode : Row := ⟨0x30000000#32, 0xFFFFFFF8#32, fun c => .prDecode (c.extractLsb' 0 3)⟩

/-- The twelve rows of R76, in the table's order. -/
def commandMap : List Row :=
  [rowRdInit, rowRdUint, rowRdBuf, rowRdRem, rowRdLen, rowLmLevel, rowLmApply, rowLmHashcount,
    rowCrcInit, rowCrcUpdate, rowCrcFinal, rowPrDecode]

/-- The word matches the row (R76). -/
def Row.hits (r : Row) (c : Word) : Bool := c &&& r.mask == r.pat

/-- How many `FUNC` values of a `UNIT` are assigned: 0.. one less than this (R76, R77). -/
def assignedFuncs (unit : BitVec 4) : Nat :=
  if unit = 0#4 then 5 else if unit = 1#4 then 3 else if unit = 2#4 then 3 else if unit = 3#4 then 1 else 0

/-- Which case of R77 makes a word that matches no row reserved. -/
def reservedWhy (c : Word) : Reserved :=
  if 4 ≤ (unitField c).toNat then .unit
  else if assignedFuncs (unitField c) ≤ (funcField c).toNat then .func
  else .mustBeZero

/-- Decode one command word: the row it matches, or why it is reserved (R76, R77). Total on all words. -/
def decode (c : Word) : Except Reserved Instr :=
  match commandMap.find? (fun r => r.hits c) with
  | some r => .ok (r.read c)
  | none => .error (reservedWhy c)

/-- The row of R76 a command belongs to. -/
def rowOf : Instr → Row
  | .rdInit _ => rowRdInit
  | .rdUint _ => rowRdUint
  | .rdBuf _ => rowRdBuf
  | .rdRem => rowRdRem
  | .rdLen => rowRdLen
  | .lmLevel _ => rowLmLevel
  | .lmApply _ _ => rowLmApply
  | .lmHashcount _ => rowLmHashcount
  | .crcInit => rowCrcInit
  | .crcUpdate _ => rowCrcUpdate
  | .crcFinal => rowCrcFinal
  | .prDecode _ => rowPrDecode

/-- A command word put together from its `UNIT`, its `FUNC` and the 24 bits of its operand fields (R72). -/
def commandWord (unit func : BitVec 4) (fields : BitVec 24) : Word := (unit ++ func ++ fields : BitVec 32)

/-- The command word of a command, each field at the place R73 gives it and every other bit of `C[23:0]` zero. Written
from R73 and the UNIT and FUNC columns of R76, apart from the match column `decode` uses. -/
def encode : Instr → Word
  | .rdInit len => commandWord 0#4 0#4 (len.setWidth 24)
  | .rdUint wid => commandWord 0#4 1#4 (wid.setWidth 24)
  | .rdBuf nby => commandWord 0#4 2#4 (nby.setWidth 24)
  | .rdRem => commandWord 0#4 3#4 0#24
  | .rdLen => commandWord 0#4 4#4 0#24
  | .lmLevel val => commandWord 1#4 0#4 (val.setWidth 24)
  | .lmApply val apn => commandWord 1#4 1#4 ((apn ++ val : BitVec 11).setWidth 24)
  | .lmHashcount val => commandWord 1#4 2#4 (val.setWidth 24)
  | .crcInit => commandWord 2#4 0#4 0#24
  | .crcUpdate byte => commandWord 2#4 1#4 (byte.setWidth 24)
  | .crcFinal => commandWord 2#4 2#4 0#24
  | .prDecode refs => commandWord 3#4 0#4 (refs.setWidth 24)

/-- The command word an opcode-table number stands for: its first `nbits` bits, every higher bit 0. A command is one
32-bit word (R78), and its bit 0 is bit 0 of the number. -/
def tableWord (nbits w : Nat) : Word := BitVec.ofNat 32 (w % 2 ^ nbits)

/-- What the decoder reads from an instruction whose bits are `w`, numbered as the opcode table numbers them. -/
def decodeTableWord (nbits w : Nat) : Option Instr :=
  match decode (tableWord nbits w) with
  | .ok i => some i
  | .error _ => none

end Sys2Proof
end

