-- ==== Sys2Proof/Machine/State.lean ====
section
/-! DEFINITION. The state of one block instance: every element of R20, each at its width, and the host's side of the
three host-facing parts of R70. `none` in a register is the spec's own content `⊥`, no value (R11, R20), which is what
R41 puts there at reset; it is never read as a number (R12). -/
namespace Sys2Proof.Machine

/-- The data port `BS_IN[0..1022]` as the host drives it during one command (R70). -/
structure DataPort where
  /-- the level of each wire when the command samples it; wire `i` is `BS_IN[i]` -/
  level : Bits
  /-- the wires that change while the command is issued, which R237 forbids for the bits RD.INIT takes -/
  moving : Bits
  deriving DecidableEq, Repr

/-- The data port with every wire 0 and still. A command that does not sample the port is issued with it. -/
def DataPort.still0 : DataPort := { level := 0#1023, moving := 0#1023 }

/-- A register the host can name in a read: any element of R20 (R40; log 7, DESIGN CHOICE). -/
inductive RegName where
  | bs | bsLen | cur | rdStatus | rdErrA | rdErrB | res | obuf | obufLen
  | crcReg | crcValid | crcOut
  | prStatus | prErrA | prErrB | prMask | prLevel
  | prHash (i : Fin 3)
  | prDepth (i : Fin 3)
  deriving DecidableEq, Repr

/-- What a register read returns to the host. -/
inductive ReadValue where
  /-- an unsigned number (R10) -/
  | num (v : Nat)
  /-- bytes, byte 0 first: `OBUF`, `CRC_OUT`, `PR_HASH[i]` -/
  | bytes (b : List Byte)
  /-- bits in stream order: `BS` (R9) -/
  | bits (b : List Bool)
  deriving DecidableEq, Repr

/-- One interaction of the host with the block (R70, R71, R230). -/
inductive HostAction where
  /-- issue one command word, the data port driven as given meanwhile -/
  | command (word : Word) (port : DataPort)
  /-- read one register -/
  | read (r : RegName)
  /-- reset the block -/
  | reset
  deriving DecidableEq, Repr

/-- Why the machine stops with a fault. The block itself has none: its errors are reported in registers and the command
completes (R206, R211). -/
inductive Fault where
  /-- A command found a flag that says a register holds a value while the register holds `⊥`: `RD_STATUS.VALID` = 1 with
  `BS` or `BS_LEN` = `⊥`, or `CRC_VALID` = 1 with `CRC_REG` = `⊥`. Raised by the BR reads, PR.DECODE, CRC.UPDATE and
  CRC.FINAL, in states no run from reset reaches. Safe: it only stops (log 9, DESIGN CHOICE). -/
  | incoherent
  deriving DecidableEq, Repr

/-- Why a command or a read is refused: the closed list of R205. A refusal has no next state. Each is safe: the spec
gives the block no behaviour there, and the model only stops. -/
inductive Refusal where
  /-- An instruction with no meaning yet; raised by exec's arm alone. No arm of this model raises it. Safe. -/
  | notModelled (mnemonic : String)
  /-- `REF_RESERVED`: raised by step on a word of no row of the command map (R77). Safe. -/
  | reserved (why : Reserved)
  /-- `REF_WIDTH`: raised by RD.UINT with WID 0 or at least 33, and by RD.BUF with NBY 0 (R75). Safe. -/
  | width
  /-- `REF_REFS_RANGE`: raised by PR.DECODE with REFS at least 5 (R171). Safe. -/
  | refsRange
  /-- `REF_NO_BITSTRING`: raised by the BR reads and PR.DECODE before the first RD.INIT after reset (R100, R171). Safe. -/
  | noBitstring
  /-- `REF_AFTER_FAULT`: raised by RD.UINT, RD.BUF and RD.REM while `RD_STATUS.FAULT` = 1 (R100). Safe. -/
  | afterFault
  /-- `REF_CRC_UNINIT`: raised by CRC.UPDATE and CRC.FINAL before the first CRC.INIT after reset (R154, R155). Safe. -/
  | crcUninit
  /-- `REF_NO_VALUE`: raised by step on a host read of a register that holds `⊥` (R12). Safe. -/
  | noValue
  /-- `REF_PORT_UNSTABLE`: raised by RD.INIT when a wire it takes moves while it is issued (R237). Safe. -/
  | portUnstable
  deriving DecidableEq, Repr

/-- One block instance. The first nineteen fields are the elements of R20; the last three are the host's side. -/
structure State where
  /-- `BS`: bit `i` is `BS[i]`; the places at and above `BS_LEN` are no part of it (R21, R22) -/
  bs : Option Bits
  /-- `BS_LEN` (R22) -/
  bsLen : Option (BitVec 10)
  /-- `CUR`: the offset of the next bit a read takes (R23) -/
  cur : BitVec 10
  /-- `RD_STATUS`: VALID, FAULT, CODE (R24) -/
  rdStatus : BitVec 8
  /-- `RD_ERR_A` (R25) -/
  rdErrA : Option (BitVec 16)
  /-- `RD_ERR_B` (R25) -/
  rdErrB : Option (BitVec 16)
  /-- `RES` (R26) -/
  res : Option Word
  /-- `OBUF`: `OBUF[0..OBUF_LEN-1]` and nothing past it (R27; log 21, DESIGN CHOICE) -/
  obuf : Option (List Byte)
  /-- `OBUF_LEN` (R27) -/
  obufLen : Option (BitVec 7)
  /-- `CRC_REG` (R29) -/
  crcReg : Option Word
  /-- `CRC_VALID` (R29) -/
  crcValid : Bool
  /-- `CRC_OUT`, least significant byte first (R30) -/
  crcOut : Option (Vector Byte 4)
  /-- `PR_STATUS`: DONE, CODE, SUB (R31) -/
  prStatus : BitVec 8
  /-- `PR_ERR_A` (R32) -/
  prErrA : Option (BitVec 16)
  /-- `PR_ERR_B` (R32) -/
  prErrB : Option (BitVec 16)
  /-- `PR_MASK` (R33) -/
  prMask : Option (BitVec 8)
  /-- `PR_LEVEL` (R34) -/
  prLevel : Option (BitVec 2)
  /-- `PR_HASH[0..2]` (R35) -/
  prHash : Vector (Option Hash) 3
  /-- `PR_DEPTH[0..2]` (R35) -/
  prDepth : Vector (Option (BitVec 16)) 3
  /-- the host actions still to be served, oldest first (R66, R70; log 2, DESIGN CHOICE) -/
  pending : List HostAction
  /-- the data port during the command being executed (R70; log 4, DESIGN CHOICE) -/
  port : DataPort
  /-- the value the last host register read returned (R71; log 6, DESIGN CHOICE) -/
  readOut : Option ReadValue
  deriving DecidableEq, Repr

/-- The block right after reset: the values of R41, `⊥` for every data register. Nothing is pending, and the host's side
is at the values logs 2, 4 and 6 (DESIGN CHOICE) name. -/
def State.reset : State where
  bs := none
  bsLen := none
  cur := 0#10
  rdStatus := 0x00#8
  rdErrA := none
  rdErrB := none
  res := none
  obuf := none
  obufLen := none
  crcReg := none
  crcValid := false
  crcOut := none
  prStatus := 0x00#8
  prErrA := none
  prErrB := none
  prMask := none
  prLevel := none
  prHash := #v[none, none, none]
  prDepth := #v[none, none, none]
  pending := []
  port := DataPort.still0
  readOut := none

end Sys2Proof.Machine
end

