-- ==== Sys2Proof/Machine/Flags.lean ====
section
/-! DEFINITION. The status registers: the fields of `RD_STATUS` (R24) and `PR_STATUS` (R31), and the error kinds with
their codes (R200). -/
namespace Sys2Proof.Machine

/-- The four error kinds the block reports (R200). -/
inductive ErrorKind where
  | outOfBounds
  | invalidCellType
  | invalidStructure
  | invalidLevel
  deriving DecidableEq, Repr

/-- The code of an error kind, in `RD_STATUS.CODE` and `PR_STATUS.CODE` (R200). -/
def codeOf : ErrorKind → BitVec 3
  | .outOfBounds => 1#3
  | .invalidCellType => 2#3
  | .invalidStructure => 3#3
  | .invalidLevel => 4#3

/-- `RD_STATUS.VALID`, bit 0 (R24). -/
def rdValid (st : BitVec 8) : Bool := st.getLsbD 0

/-- `RD_STATUS.FAULT`, bit 1 (R24). -/
def rdFault (st : BitVec 8) : Bool := st.getLsbD 1

/-- `RD_STATUS.CODE`, bits [4:2] (R24). -/
def rdCode (st : BitVec 8) : BitVec 3 := st.extractLsb' 2 3

/-- An `RD_STATUS` with the given fields and its reserved bits [7:5] 0 (R24). -/
def rdStatusOf (valid fault : Bool) (code : BitVec 3) : BitVec 8 :=
  (0#3 ++ code ++ BitVec.ofBool fault ++ BitVec.ofBool valid : BitVec 8)

/-- `RD_STATUS` with FAULT set and CODE = OutOfBounds, every other bit as it was (R106; log 15, DEDUCED). -/
def rdStatusFaulted (st : BitVec 8) : BitVec 8 :=
  (st.extractLsb' 5 3 ++ codeOf .outOfBounds ++ 1#1 ++ st.extractLsb' 0 1 : BitVec 8)

/-- `PR_STATUS.DONE`, bit 0 (R31). -/
def prDone (st : BitVec 8) : Bool := st.getLsbD 0

/-- `PR_STATUS.CODE`, bits [3:1] (R31). -/
def prCode (st : BitVec 8) : BitVec 3 := st.extractLsb' 1 3

/-- `PR_STATUS.SUB`, bit 4 (R31). -/
def prSub (st : BitVec 8) : Bool := st.getLsbD 4

/-- A `PR_STATUS` after a completed PR.DECODE: DONE = 1, the given CODE and SUB, reserved bits [7:5] 0 (R31). -/
def prStatusOf (code : BitVec 3) (sub : Bool) : BitVec 8 :=
  (0#3 ++ BitVec.ofBool sub ++ code ++ 1#1 : BitVec 8)

/-- `PR_VALID`: DONE = 1 and CODE = 0, a name for a condition (R36). -/
def prValid (st : BitVec 8) : Bool := prDone st && prCode st == 0#3

end Sys2Proof.Machine
end

