-- ==== Sys2Proof/Config.lean ====
section
/-! DEFINITION. The implementation parameters of R8. Each has the value the table of R8 gives; only `INSTANCES` is
open, so it is a constant with no body (R214, log 1, DESIGN CHOICE). -/
namespace Sys2Proof.Config

/-- `MAX_BITS`: the largest BitString length (R8). -/
abbrev maxBits : Nat := 1023
/-- `MAX_REFS`: the largest reference count presented to PR (R8). -/
abbrev maxRefs : Nat := 4
/-- `UINT_MIN`: the narrowest integer read (R8). -/
abbrev uintMin : Nat := 1
/-- `UINT_MAX`: the widest integer read (R8). -/
abbrev uintMax : Nat := 32
/-- `BUF_MIN`: the smallest buffer read, in bytes (R8). -/
abbrev bufMin : Nat := 1
/-- `BUF_MAX`: the largest buffer read, in bytes (R8); every value of the 7-bit field NBY is at most this. -/
abbrev bufMax : Nat := 127
/-- `PR_TYPE`: the pruned-branch type discriminant (R8). -/
abbrev prType : Nat := 1
/-- `HASH_BITS` (R8). -/
abbrev hashBits : Nat := 256
/-- `DEPTH_BITS` (R8). -/
abbrev depthBits : Nat := 16
/-- `PR_LEGACY_LEN`: the total length that forces mask 1 (R8, R175). -/
abbrev prLegacyLen : Nat := 280
/-- `PR_MAX_LEVEL` (R8). -/
abbrev prMaxLevel : Nat := 3
/-- `CRC_POLY_REFL`: the Castagnoli polynomial in reflected form (R8). -/
abbrev crcPoly : Word := 0x82F63B78#32
/-- `CRC_INIT` (R8). -/
abbrev crcInit : Word := 0xFFFFFFFF#32
/-- `CRC_XOROUT` (R8). -/
abbrev crcXorOut : Word := 0xFFFFFFFF#32

/-- `INSTANCES`: the number of independent block instances, which the spec leaves OPEN (R8, R214). No body: nothing can
be proved of its value. -/
opaque instances : Nat

end Sys2Proof.Config
end

