-- ==== Sys2Proof/Machine/Operands.lean ====
section
/-! DEFINITION. The operand forms: bits, integers and bytes read from the BitString bit space (R11, R53, R54), zero
extension into the registers (R10), and the data port's bits as RD.INIT takes them (R22, R55, R237). -/
namespace Sys2Proof.Machine

/-- Bit `i` of the BitString as a number, `BS[i]` (R9). -/
def bitAt (bs : Bits) (i : Nat) : Nat := (bs.getLsbD i).toNat

/-- `UintAt(BS, c, n)`, the sum over `i` in 0..n-1 of `BS[c+i] * 2^(n-1-i)`: the bit at the lowest offset is the most
significant (R11, R53). -/
def uintAt (bs : Bits) (c n : Nat) : Nat :=
  ((List.range n).map fun i => bitAt bs (c + i) * 2 ^ (n - 1 - i)).sum

/-- Byte `j` of `BytesAt(BS, c, k)`: `UintAt(BS, c + 8*j, 8)` (R11, R54). -/
def byteAt (bs : Bits) (c j : Nat) : Byte := BitVec.ofNat 8 (uintAt bs (c + 8 * j) 8)

/-- `BytesAt(BS, c, k)` (R11, R54). -/
def bytesAt (bs : Bits) (c k : Nat) : List Byte := (List.range k).map (byteAt bs c)

/-- The 32 bytes of a hash at offset `c`: `BytesAt(BS, c, 32)` (R178). -/
def hashAt (bs : Bits) (c : Nat) : Hash := Vector.ofFn fun j => byteAt bs c j.val

/-- A depth at offset `c`: `UintAt(BS, c, 16)` (R178). -/
def depthAt (bs : Bits) (c : Nat) : BitVec 16 := BitVec.ofNat 16 (uintAt bs c 16)

/-- `zext_32` of a result, which always fits (R10, R14, R26). -/
def zext32 (v : Nat) : Word := BitVec.ofNat 32 v

/-- A context value of an error, 16 bits (R25, R32). -/
def context (v : Nat) : BitVec 16 := BitVec.ofNat 16 v

/-- How many bits an RD.BUF of `NBY` bytes reads: `8 * NBY`, the only scaled operand (R74). -/
def bufferBits (nby : BitVec 7) : Nat := 8 * nby.toNat

/-- The first `len` bits of a bundle of 1023, every other place 0 (R22, R101; log 11, DESIGN CHOICE). -/
def firstBits (len : Nat) (v : Bits) : Bits := (v.setWidth len).setWidth 1023

/-- No wire the latch takes moves while RD.INIT is issued (R71, R237; log 5, DEDUCED). -/
def portStable (p : DataPort) (len : Nat) : Bool := firstBits len p.moving == 0#1023

/-- The data port's bits when the host holds them as bytes `b`: bit `i` is bit `7 - (i mod 8)` of `b[i div 8]` (R55).
Wires past the last byte are 0; no rule reads them (U5). -/
def portBit (b : List Byte) (i : Nat) : Bool := (b.getD (i / 8) 0#8).getLsbD (7 - i % 8)

/-- All 1023 wires of the data port from the host's bytes (R55). -/
def portOfBytes (b : List Byte) : Bits :=
  BitVec.ofNat 1023 ((List.range 1023).foldr (fun i acc => (portBit b i).toNat + 2 * acc) 0)

end Sys2Proof.Machine
end

