-- ==== Sys2Proof/Machine/Ops.lean ====
section
/-! DEFINITION. The named operations over the registers: writing each result register, latching a BitString, the
preconditions of the commands, reporting an error (the block's counterpart of taking an exception, R206), reading a
register for the host, and the host's actions other than commands. -/
namespace Sys2Proof.Machine

/-- The three outcomes of a command. -/
abbrev Result := Host.Outcome State Fault Refusal

/-- Write `RES`; `none` is `⊥` (R26). -/
def State.setRes (s : State) (v : Option Word) : State := { s with res := v }

/-- Write `OBUF` and `OBUF_LEN` with a buffer: `OBUF` becomes exactly these bytes, and what it held past them is gone
(R27, R103; log 21, DESIGN CHOICE). -/
def State.setObuf (s : State) (b : List Byte) : State :=
  { s with obuf := some b, obufLen := some (BitVec.ofNat 7 b.length) }

/-- Make `OBUF` and `OBUF_LEN` `⊥` (R27, R106). -/
def State.clearObuf (s : State) : State := { s with obuf := none, obufLen := none }

/-- Move the cursor past the `w` bits a read took (R23). -/
def State.advance (s : State) (w : Nat) : State := { s with cur := s.cur + BitVec.ofNat 10 w }

/-- Write `CRC_REG` (R154). -/
def State.setCrcReg (s : State) (r : Word) : State := { s with crcReg := some r }

/-- Write `CRC_REG` and set `CRC_VALID` (R153). -/
def State.startCrc (s : State) (r : Word) : State := { s with crcReg := some r, crcValid := true }

/-- Write `CRC_OUT` (R155). -/
def State.setCrcOut (s : State) (b : Vector Byte 4) : State := { s with crcOut := some b }

/-- Latch `len` bits of the data port and construct a fresh reader over them: cursor 0, `RD_STATUS` = VALID, no error
context (R101). -/
def State.latch (s : State) (len : BitVec 10) : State :=
  { s with
    bs := some (firstBits len.toNat s.port.level)
    bsLen := some len
    cur := 0#10
    rdStatus := rdStatusOf true false 0#3
    rdErrA := none
    rdErrB := none }

/-- The bits that remain, `BS_LEN - CUR` (R104, R106). In a state where the cursor is past the end, which no run reaches
(R107), it is 0 (log 10, DESIGN CHOICE). -/
def remaining (len cur : BitVec 10) : Nat := len.toNat - cur.toNat

/-- Report OutOfBounds on the BR unit: a read of `w` bits with `rest` left sets FAULT and CODE and records both numbers;
the cursor stays (R106). The failing command makes its own result register `⊥` beside it. -/
def State.reportOutOfBounds (s : State) (w rest : Nat) : State :=
  { s with
    rdStatus := rdStatusFaulted s.rdStatus
    rdErrA := some (context w)
    rdErrB := some (context rest) }

/-- Report an error of PR.DECODE: status, context, and every result register `⊥`, so that no partial result survives
(R180). -/
def State.failDecode (s : State) (kind : ErrorKind) (sub : Bool) (a b : Nat) : State :=
  { s with
    prStatus := prStatusOf (codeOf kind) sub
    prErrA := some (context a)
    prErrB := some (context b)
    prMask := none
    prLevel := none
    prHash := #v[none, none, none]
    prDepth := #v[none, none, none] }

/-- Commit a decoded cell, all at once: entry `i` is entry `i` of the lists, and `⊥` past their end (R179). -/
def State.commitDecode (s : State) (mask : Byte) (level : Nat) (hashes : List Hash) (depths : List (BitVec 16)) :
    State :=
  { s with
    prStatus := prStatusOf 0#3 false
    prErrA := none
    prErrB := none
    prMask := some mask
    prLevel := some (BitVec.ofNat 2 level)
    prHash := #v[hashes[0]?, hashes[1]?, hashes[2]?]
    prDepth := #v[depths[0]?, depths[1]?, depths[2]?] }

/-- The precondition every command over the BitString has: refused with `REF_NO_BITSTRING` while VALID = 0 (R100, R171).
`k` goes on with `BS` and `BS_LEN`. -/
def withBitString (s : State) (k : Bits → BitVec 10 → Result) : Result :=
  if rdValid s.rdStatus then
    match s.bs, s.bsLen with
    | some bs, some len => k bs len
    | _, _ => .fault .incoherent
  else .refused .noBitstring

/-- The precondition of a command that uses the cursor: a BitString, and no fault since it was latched (R100). -/
def withLiveReader (s : State) (k : Bits → BitVec 10 → Result) : Result :=
  withBitString s fun bs len => if rdFault s.rdStatus then .refused .afterFault else k bs len

/-- The precondition of CRC.UPDATE and CRC.FINAL: refused with `REF_CRC_UNINIT` while `CRC_VALID` = 0 (R154, R155). `k`
goes on with `CRC_REG`. -/
def withCrc (s : State) (k : Word → Result) : Result :=
  if s.crcValid then
    match s.crcReg with
    | some r => k r
    | none => .fault .incoherent
  else .refused .crcUninit

/-- The bits of the latched BitString in stream order, `BS[0..BS_LEN-1]` (R9, R20). -/
def bitList (bs : Bits) (len : BitVec 10) : List Bool := (List.range len.toNat).map fun i => bs.getLsbD i

/-- The value a host read of a register returns; `none` when the register holds `⊥` (R40). -/
def State.readReg (s : State) : RegName → Option ReadValue
  | .bs =>
    match s.bs, s.bsLen with
    | some bs, some len => some (.bits (bitList bs len))
    | _, _ => none
  | .bsLen => s.bsLen.map fun v => .num v.toNat
  | .cur => some (.num s.cur.toNat)
  | .rdStatus => some (.num s.rdStatus.toNat)
  | .rdErrA => s.rdErrA.map fun v => .num v.toNat
  | .rdErrB => s.rdErrB.map fun v => .num v.toNat
  | .res => s.res.map fun v => .num v.toNat
  | .obuf => s.obuf.map fun b => .bytes b
  | .obufLen => s.obufLen.map fun v => .num v.toNat
  | .crcReg => s.crcReg.map fun v => .num v.toNat
  | .crcValid => some (.num s.crcValid.toNat)
  | .crcOut => s.crcOut.map fun b => .bytes b.toList
  | .prStatus => some (.num s.prStatus.toNat)
  | .prErrA => s.prErrA.map fun v => .num v.toNat
  | .prErrB => s.prErrB.map fun v => .num v.toNat
  | .prMask => s.prMask.map fun v => .num v.toNat
  | .prLevel => s.prLevel.map fun v => .num v.toNat
  | .prHash i => s.prHash[i].map fun h => .bytes h.toList
  | .prDepth i => s.prDepth[i].map fun v => .num v.toNat

/-- Serve a host read: the value goes to the host and nothing else changes; a register that holds `⊥` is refused with
`REF_NO_VALUE`, never read as zero (R12, R40). -/
def serveRead (r : RegName) (s : State) : Result :=
  match s.readReg r with
  | some v => .next { s with readOut := some v }
  | none => .refused .noValue

/-- Reset the block: every element of R20 takes its value of R41; what is on the host's side stays (R230;
log 16, DESIGN CHOICE). -/
def resetBlock (s : State) : State :=
  { State.reset with pending := s.pending, port := s.port, readOut := s.readOut }

/-- The data port driven as given (R70). -/
def State.drive (s : State) (p : DataPort) : State := { s with port := p }

/-- One host action taken off the queue. -/
def State.withPending (s : State) (rest : List HostAction) : State := { s with pending := rest }

/-- The block waits for the host's next command: nothing changes (R231; log 3, DEDUCED). -/
def idle (s : State) : Result := .next s

/-- Issue one command: decoded by `dec` and run by `run`, or refused with `REF_RESERVED` (R77). -/
def issue (dec : Word → Except Reserved Instr) (run : Instr → State → Result) (c : Word) (p : DataPort) (s : State) :
    Result :=
  match dec c with
  | .ok i => run i (s.drive p)
  | .error why => .refused (.reserved why)

end Sys2Proof.Machine
end

