-- ==== Sys2Proof/WellFormed.lean ====
section
/-! DEFINITION. The commands the block admits: operand values the word can hold but the block does not admit (R75) are
ill-formed. They still decode, because the refusal they meet depends on the state too (R102, R103, R171). -/
namespace Sys2Proof

/-- `WID` is admitted: 1..32 (R75). -/
def widthAdmitted (wid : BitVec 6) : Bool :=
  decide (Config.uintMin ≤ wid.toNat) && decide (wid.toNat ≤ Config.uintMax)

/-- `NBY` is admitted: 1..127, that is not 0 (R75). -/
def bytesAdmitted (nby : BitVec 7) : Bool :=
  decide (Config.bufMin ≤ nby.toNat) && decide (nby.toNat ≤ Config.bufMax)

/-- `REFS` is admitted: 0..4 (R75, R171). -/
def refsAdmitted (refs : BitVec 3) : Bool := decide (refs.toNat ≤ Config.maxRefs)

/-- Every operand of the command is admitted (R75). -/
def Instr.wellFormed : Instr → Bool
  | .rdUint wid => widthAdmitted wid
  | .rdBuf nby => bytesAdmitted nby
  | .prDecode refs => refsAdmitted refs
  | .rdInit _ => true
  | .rdRem => true
  | .rdLen => true
  | .lmLevel _ => true
  | .lmApply _ _ => true
  | .lmHashcount _ => true
  | .crcInit => true
  | .crcUpdate _ => true
  | .crcFinal => true

end Sys2Proof
end

