-- ==== Sys2Proof/Machine/BitReader.lean ====
section
/-! DEFINITION. The BR unit's commands: RD.INIT, RD.UINT, RD.BUF, RD.REM, RD.LEN (40_bitreader.md). -/
namespace Sys2Proof.Machine

/-- RD.INIT (R101): latch `LEN` bits of the data port; refused when a bit it takes moves meanwhile (R237). -/
def execRdInit (len : BitVec 10) (s : State) : Result :=
  if portStable s.port len.toNat then .next (s.latch len) else .refused .portUnstable

/-- RD.UINT (R102): the integer of `WID` bits at the cursor goes to `RES`, or OutOfBounds is reported and `RES` is `⊥`
(R106). The refusals come in the rule's order, before the bounds test (R208). -/
def execRdUint (wid : BitVec 6) (s : State) : Result :=
  withLiveReader s fun bs len =>
    if widthAdmitted wid then
      if remaining len s.cur < wid.toNat then
        .next ((s.reportOutOfBounds wid.toNat (remaining len s.cur)).setRes none)
      else
        .next ((s.setRes (some (zext32 (uintAt bs s.cur.toNat wid.toNat)))).advance wid.toNat)
    else .refused .width

/-- RD.BUF (R103): `NBY` bytes at the cursor go to `OBUF`, or OutOfBounds is reported on all `8 * NBY` bits at once and
`OBUF` and `OBUF_LEN` are `⊥` (R106). -/
def execRdBuf (nby : BitVec 7) (s : State) : Result :=
  withLiveReader s fun bs len =>
    if bytesAdmitted nby then
      if remaining len s.cur < bufferBits nby then
        .next (s.reportOutOfBounds (bufferBits nby) (remaining len s.cur)).clearObuf
      else
        .next ((s.setObuf (bytesAt bs s.cur.toNat nby.toNat)).advance (bufferBits nby))
    else .refused .width

/-- RD.REM (R104): the number of bits remaining goes to `RES`. -/
def execRdRem (s : State) : Result :=
  withLiveReader s fun _ len => .next (s.setRes (some (zext32 (remaining len s.cur))))

/-- RD.LEN (R105): the total length goes to `RES`; admitted after a fault too. -/
def execRdLen (s : State) : Result :=
  withBitString s fun _ len => .next (s.setRes (some (zext32 len.toNat)))

end Sys2Proof.Machine
end

