-- ==== Sys2Proof/Machine/Crc.lean ====
section
/-! DEFINITION. The CRC unit: CRC32C as a function of a byte sequence (R150 to R152), and the commands CRC.INIT,
CRC.UPDATE, CRC.FINAL that compute it one byte at a time (42_crc32c.md). -/
namespace Sys2Proof.Machine

/-- One single-bit reflected shift and XOR step (R151; log 13, PRESUMED). -/
def crcBit (r : Word) : Word := if r.getLsbD 0 then (r >>> 1) ^^^ Config.crcPoly else r >>> 1

/-- `n` single-bit steps. -/
def crcBits : Nat → Word → Word
  | 0, r => r
  | n + 1, r => crcBits n (crcBit r)

/-- `crcByte(r, x)`: the byte enters bits 7..0 of the register, then eight single-bit steps (R151; log 13, PRESUMED). -/
def crcByte (r : Word) (x : Byte) : Word := crcBits 8 (r ^^^ x.setWidth 32)

/-- `crcStep*(r, b)`: the bytes in order (R150). -/
def crcSteps : Word → List Byte → Word
  | r, [] => r
  | r, x :: rest => crcSteps (crcByte r x) rest

/-- `LE4(r)`: the four bytes of a register, least significant first (R152). -/
def le4 (r : Word) : Vector Byte 4 :=
  #v[r.extractLsb' 0 8, r.extractLsb' 8 8, r.extractLsb' 16 8, r.extractLsb' 24 8]

/-- `crc32c(b)` (R150). -/
def crc32c (b : List Byte) : Vector Byte 4 := le4 (crcSteps Config.crcInit b ^^^ Config.crcXorOut)

/-- CRC.INIT (R153): `CRC_OUT` stays. -/
def execCrcInit (s : State) : Result := .next (s.startCrc Config.crcInit)

/-- CRC.UPDATE (R154). -/
def execCrcUpdate (byte : BitVec 8) (s : State) : Result :=
  withCrc s fun r => .next (s.setCrcReg (crcByte r byte))

/-- CRC.FINAL (R155): `CRC_REG` and `CRC_VALID` stay, so that the stream may go on (R238). -/
def execCrcFinal (s : State) : Result :=
  withCrc s fun r => .next (s.setCrcOut (le4 (r ^^^ Config.crcXorOut)))

end Sys2Proof.Machine
end

