-- ==== Sys2Proof/Machine/LevelMask.lean ====
section
/-! DEFINITION. The LM unit: the three functions of a LevelMask value, total on all 8-bit values (R130 to R132), and
the commands LM.LEVEL, LM.APPLY, LM.HASHCOUNT that put them into `RES` (41_levelmask.md). -/
namespace Sys2Proof.Machine

/-- `hsb(v)`: the index of the most significant 1 bit of a value that is not 0 (R10). -/
def hsb (v : Byte) : Nat := Nat.log2 v.toNat

/-- `level(v)`: 0 for 0, else 1 + `hsb(v)` over the WHOLE 8-bit value (R130, C1). -/
def level (v : Byte) : Nat := if v = 0#8 then 0 else 1 + hsb v

/-- `apply(v, n)`: `v AND (2^(n+1) - 1)` (R131). -/
def applyMask (v : Byte) (n : Nat) : Byte := v &&& BitVec.ofNat 8 (2 ^ (n + 1) - 1)

/-- `hashCount(v)`: the number of 1 bits of `v` (R132, R10). -/
def hashCount (v : Byte) : Nat := (List.range 8).countP fun i => v.getLsbD i

/-- LM.LEVEL (R133). -/
def execLmLevel (val : BitVec 8) (s : State) : Result := .next (s.setRes (some (zext32 (level val))))

/-- LM.APPLY (R134). -/
def execLmApply (val : BitVec 8) (apn : BitVec 3) (s : State) : Result :=
  .next (s.setRes (some (zext32 (applyMask val apn.toNat).toNat)))

/-- LM.HASHCOUNT (R135). -/
def execLmHashcount (val : BitVec 8) (s : State) : Result := .next (s.setRes (some (zext32 (hashCount val))))

end Sys2Proof.Machine
end

