-- ==== Sys2Proof/Machine/Pruned.lean ====
section
/-! DEFINITION. The PR unit: the seven gates of the pruned-branch decoder as a function of a BitString and a reference
count (R170 to R181), and the command PR.DECODE that commits what it gives (43_pruned_decoder.md). -/
namespace Sys2Proof.Machine

/-- The error a gate ends the command with: its kind, SUB, and the context A, B (R180, R32). -/
structure GateError where
  kind : ErrorKind
  sub : Bool
  a : Nat
  b : Nat
  deriving DecidableEq, Repr

/-- What a decode that passes every gate has read, and where its own cursor ends (R37, R179, R187). -/
structure Cell where
  mask : Byte
  level : Nat
  hashes : List Hash
  depths : List (BitVec 16)
  endCur : Nat
  deriving DecidableEq, Repr

/-- `need(w)`: OutOfBounds when fewer than `w` bits remain at the decoder's cursor `c` (R170, R172). -/
def need (len c w : Nat) : Except GateError Unit :=
  if len - c < w then .error ⟨.outOfBounds, false, w, len - c⟩ else .ok ()

/-- Step 1: the type discriminant, 8 bits at offset 0, must be 1 (R173). -/
def gateType (bs : Bits) (len : Nat) : Except GateError Unit := do
  need len 0 8
  if uintAt bs 0 8 = Config.prType then .ok ()
  else .error ⟨.invalidCellType, false, Config.prType, uintAt bs 0 8⟩

/-- Step 2: the reference list must be empty (R174). -/
def gateRefs (refs : Nat) : Except GateError Unit :=
  if refs = 0 then .ok () else .error ⟨.invalidStructure, false, 0, refs⟩

/-- The exact size a mask demands: `8 + 8 + hashCount(apply(m, level(m) - 1)) * (256 + 16)` (R177). -/
def cellSize (m : Byte) : Nat :=
  8 + 8 + hashCount (applyMask m (level m - 1)) * (Config.hashBits + Config.depthBits)

/-- Step 4: the mask byte at offset 8, its level in 1..3 (R176). -/
def gateMask (bs : Bits) (len : Nat) : Except GateError Byte := do
  need len 8 8
  if 1 ≤ level (byteAt bs 8 0) ∧ level (byteAt bs 8 0) ≤ Config.prMaxLevel then .ok (byteAt bs 8 0)
  else .error ⟨.invalidLevel, false, (byteAt bs 8 0).toNat, level (byteAt bs 8 0)⟩

/-- Step 5: the length must be exactly the size the mask demands (R177). -/
def gateSize (m : Byte) (len : Nat) : Except GateError Unit :=
  if len = cellSize m then .ok () else .error ⟨.invalidStructure, true, cellSize m, len⟩

/-- Steps 3 to 5: the mask, and the cursor after it. At length 280 the mask is 1, no mask byte is read and no size is
checked (R175, C4). -/
def gateLayout (bs : Bits) (len : Nat) : Except GateError (Byte × Nat) :=
  if len = Config.prLegacyLen then .ok (1#8, 8)
  else do
    let m ← gateMask bs len
    gateSize m len
    .ok (m, 16)

/-- The first half of step 6: `n` hashes in order from cursor `c`, each within bounds (R178). -/
def readHashes (bs : Bits) (len : Nat) : Nat → Nat → Except GateError (List Hash)
  | 0, _ => .ok []
  | n + 1, c => do
    need len c Config.hashBits
    let rest ← readHashes bs len n (c + Config.hashBits)
    .ok (hashAt bs c :: rest)

/-- The second half of step 6: `n` depths in order from cursor `c`, each within bounds (R178). -/
def readDepths (bs : Bits) (len : Nat) : Nat → Nat → Except GateError (List (BitVec 16))
  | 0, _ => .ok []
  | n + 1, c => do
    need len c Config.depthBits
    let rest ← readDepths bs len n (c + Config.depthBits)
    .ok (depthAt bs c :: rest)

/-- The whole decoder over a BitString of `len` bits, with a fresh cursor: the first failing gate, or the cell (R170,
R172, R208). -/
def decodeCell (bs : Bits) (len refs : Nat) : Except GateError Cell := do
  gateType bs len
  gateRefs refs
  let (m, c) ← gateLayout bs len
  let hashes ← readHashes bs len (level m) c
  let depths ← readDepths bs len (level m) (c + Config.hashBits * level m)
  .ok ⟨m, level m, hashes, depths, c + Config.hashBits * level m + Config.depthBits * level m⟩

/-- PR.DECODE (R170): refused without a BitString, then for a reference count above 4 (R171); otherwise it completes,
with the cell (R179) or the error (R180). The reader's FAULT and cursor do not matter (R171, R172). -/
def execPrDecode (refs : BitVec 3) (s : State) : Result :=
  withBitString s fun bs len =>
    if refsAdmitted refs then
      match decodeCell bs len.toNat refs.toNat with
      | .ok cell => .next (s.commitDecode cell.mask cell.level cell.hashes cell.depths)
      | .error e => .next (s.failDecode e.kind e.sub e.a e.b)
    else .refused .refsRange

end Sys2Proof.Machine
end

