-- ==== Sys2Proof/Machine/Dispatch.lean ====
section
/-! DEFINITION. One arm per command of the command map (R76), each one call of its meaning. -/
namespace Sys2Proof.Machine

def exec (i : Instr) (s : State) : Host.Outcome State Fault Refusal :=
  match i with
  | .rdInit len => Sys2Proof.Machine.execRdInit len s
  | .rdUint wid => Sys2Proof.Machine.execRdUint wid s
  | .rdBuf nby => Sys2Proof.Machine.execRdBuf nby s
  | .rdRem => Sys2Proof.Machine.execRdRem s
  | .rdLen => Sys2Proof.Machine.execRdLen s
  | .lmLevel val => Sys2Proof.Machine.execLmLevel val s
  | .lmApply val apn => Sys2Proof.Machine.execLmApply val apn s
  | .lmHashcount val => Sys2Proof.Machine.execLmHashcount val s
  | .crcInit => Sys2Proof.Machine.execCrcInit s
  | .crcUpdate byte => Sys2Proof.Machine.execCrcUpdate byte s
  | .crcFinal => Sys2Proof.Machine.execCrcFinal s
  | .prDecode refs => Sys2Proof.Machine.execPrDecode refs s

end Sys2Proof.Machine
end

