-- ==== Sys2Proof/Machine/Step.lean ====
section
/-! DEFINITION. One step of the block: serve the oldest pending host action (R66). There is no program counter and no
instruction memory (R38, R52): the command port is where a command comes from. -/
namespace Sys2Proof.Machine

/-- One step: wait when the host asks nothing, else reset, a register read, or one whole command (R3, R62, R66). -/
def step (s : State) : Host.Outcome State Fault Refusal :=
  match s.pending with
  | [] => idle s
  | .reset :: rest => .next (resetBlock (s.withPending rest))
  | .read r :: rest => serveRead r (s.withPending rest)
  | .command c p :: rest => issue decode exec c p (s.withPending rest)

/-- The command word placed at the head of the host's queue, issued with the data port as it stands (log 2, DESIGN CHOICE). -/
def State.withFetchWord (s : State) (nbits w : Nat) : State :=
  { s with pending := .command (tableWord nbits w) s.port :: s.pending }

end Sys2Proof.Machine
end

