-- ==== Sys2Proof/Machine/Assembler.lean ====
section
/-! DEFINITION. The assembly syntax of R79 and the pseudo-instructions of R80: one line of text to the host actions it
stands for. The syntax has no semantics of its own (D5); no step reads this file. Where R79
is silent (blanks, letter case of hexadecimal digits, what is no line) log 17 (DESIGN CHOICE) says what is
taken. -/
namespace Sys2Proof.Machine

/-- The command of an instruction that does not sample the data port. -/
def HostAction.plain (i : Instr) : HostAction := .command (encode i) DataPort.still0

/-- `rd.init LEN, 0xHEX`: RD.INIT with the data port driven, and held, as the bytes say (R79, R55). -/
def HostAction.init (len : BitVec 10) (b : List Byte) : HostAction :=
  .command (encode (.rdInit len)) { level := portOfBytes b, moving := 0#1023 }

/-- The commands `crc.buf 0xHEX` expands to (R80). -/
def crcBufInstrs (b : List Byte) : List Instr := .crcInit :: (b.map .crcUpdate ++ [.crcFinal])

/-- The pseudo-instruction `crc.buf 0xHEX` (R80). -/
def crcBuf (b : List Byte) : List HostAction := (crcBufInstrs b).map .plain

/-- The pseudo-instruction `pr.cell LEN, 0xHEX, REFS` (R80). -/
def prCell (len : BitVec 10) (b : List Byte) (refs : BitVec 3) : List HostAction :=
  [.init len b, .plain (.prDecode refs)]

/-- The value of one digit, of any base up to 16. -/
def digitOf (c : Char) : Option Nat :=
  if '0' ≤ c ∧ c ≤ '9' then some (c.toNat - '0'.toNat)
  else if 'a' ≤ c ∧ c ≤ 'f' then some (c.toNat - 'a'.toNat + 10)
  else if 'A' ≤ c ∧ c ≤ 'F' then some (c.toNat - 'A'.toNat + 10)
  else none

/-- The digits of a number in a base, most significant first. -/
def digitsIn (base : Nat) : Nat → List Char → Option Nat
  | acc, [] => some acc
  | acc, c :: rest =>
    match digitOf c with
    | some d => if d < base then digitsIn base (base * acc + d) rest else none
    | none => none

/-- A number: decimal, `0x` hexadecimal or `0b` binary (R79). -/
def parseNumber : List Char → Option Nat
  | [] => none
  | ['0', 'x'] => none
  | ['0', 'b'] => none
  | '0' :: 'x' :: rest => digitsIn 16 0 rest
  | '0' :: 'b' :: rest => digitsIn 2 0 rest
  | c :: rest => digitsIn 10 0 (c :: rest)

/-- Pairs of hexadecimal digits as bytes. -/
def hexPairs : List Char → Option (List Byte)
  | [] => some []
  | [_] => none
  | a :: b :: rest =>
    match digitOf a, digitOf b, hexPairs rest with
    | some x, some y, some bytes => some (BitVec.ofNat 8 (16 * x + y) :: bytes)
    | _, _, _ => none

/-- A byte sequence `0xHEX`; `0x` is the empty one (R79, R80). -/
def parseBytes : List Char → Option (List Byte)
  | '0' :: 'x' :: rest => hexPairs rest
  | _ => none

/-- A number that fits a field of `w` bits. -/
def parseField (w : Nat) (t : List Char) : Option (BitVec w) :=
  match parseNumber t with
  | some v => if v < 2 ^ w then some (BitVec.ofNat w v) else none
  | none => none

/-- The bytes of a data port for a length: `ceil(LEN/8)` of them, and every bit of the last one past `LEN` 0, index 1023
for `LEN` = 1023 among them, which is no wire of the port (R79). That bytes which do not fit are no program is the model's
choice (log 17, DESIGN CHOICE). -/
def portBytesFit (len : BitVec 10) (b : List Byte) : Bool :=
  b.length == (len.toNat + 7) / 8 &&
    (List.range 8).all fun k => !(decide (len.toNat ≤ 8 * (b.length - 1) + k) && portBit b (8 * (b.length - 1) + k))

/-- Blank characters. -/
def isBlank (c : Char) : Bool := c == ' ' || c == '\t' || c == '\r'

/-- Text without the blanks at its two ends. -/
def trim (t : List Char) : List Char := ((t.dropWhile isBlank).reverse.dropWhile isBlank).reverse

/-- The pieces of a text between the occurrences of a character. -/
def pieces (sep : Char) : List Char → List (List Char)
  | [] => [[]]
  | c :: rest =>
    match pieces sep rest with
    | [] => [[c]]
    | p :: ps => if c == sep then [] :: p :: ps else (c :: p) :: ps

/-- The part of a line before its comment; a `;` starts one (R79). -/
def withoutComment (t : List Char) : List Char := t.takeWhile fun c => c != ';'

/-- The operands of a line, between commas; none where there is no text. -/
def operands (t : List Char) : List (List Char) :=
  if trim t = [] then [] else (pieces ',' t).map trim

/-- One command with one field. -/
def oneField (w : Nat) (mk : BitVec w → Instr) : List (List Char) → Option (List HostAction)
  | [a] => (parseField w a).map fun v => [.plain (mk v)]
  | _ => none

/-- One command with no operand. -/
def noField (i : Instr) : List (List Char) → Option (List HostAction)
  | [] => some [.plain i]
  | _ => none

/-- `rd.init LEN, 0xHEX` (R79). -/
def assembleInit : List (List Char) → Option (List HostAction)
  | [a, b] =>
    match parseField 10 a, parseBytes b with
    | some len, some bytes => if portBytesFit len bytes then some [.init len bytes] else none
    | _, _ => none
  | _ => none

/-- `lm.apply VAL, APN` (R79). -/
def assembleApply : List (List Char) → Option (List HostAction)
  | [a, b] =>
    match parseField 8 a, parseField 3 b with
    | some val, some apn => some [.plain (.lmApply val apn)]
    | _, _ => none
  | _ => none

/-- `crc.buf 0xHEX` (R80). -/
def assembleCrcBuf : List (List Char) → Option (List HostAction)
  | [a] => (parseBytes a).map crcBuf
  | _ => none

/-- `pr.cell LEN, 0xHEX, REFS` (R80). -/
def assembleCell : List (List Char) → Option (List HostAction)
  | [a, b, c] =>
    match parseField 10 a, parseBytes b, parseField 3 c with
    | some len, some bytes, some refs => if portBytesFit len bytes then some (prCell len bytes refs) else none
    | _, _, _ => none
  | _ => none

/-- A mnemonic in lower case and its operands (R79, R80). -/
def assembleCommand (name : List Char) (ops : List (List Char)) : Option (List HostAction) :=
  if name = "rd.init".toList then assembleInit ops
  else if name = "rd.uint".toList then oneField 6 .rdUint ops
  else if name = "rd.buf".toList then oneField 7 .rdBuf ops
  else if name = "rd.rem".toList then noField .rdRem ops
  else if name = "rd.len".toList then noField .rdLen ops
  else if name = "lm.level".toList then oneField 8 .lmLevel ops
  else if name = "lm.apply".toList then assembleApply ops
  else if name = "lm.hashcount".toList then oneField 8 .lmHashcount ops
  else if name = "crc.init".toList then noField .crcInit ops
  else if name = "crc.update".toList then oneField 8 .crcUpdate ops
  else if name = "crc.final".toList then noField .crcFinal ops
  else if name = "pr.decode".toList then oneField 3 .prDecode ops
  else if name = "crc.buf".toList then assembleCrcBuf ops
  else if name = "pr.cell".toList then assembleCell ops
  else none

/-- One line: nothing, or one command (R79). -/
def assembleLine (line : List Char) : Option (List HostAction) :=
  let text := trim (withoutComment line)
  if text = [] then some []
  else assembleCommand (text.takeWhile fun c => !isBlank c) (operands (text.dropWhile fun c => !isBlank c))

/-- The lines of a program, in order. -/
def assembleLines : List (List Char) → Option (List HostAction)
  | [] => some []
  | line :: rest =>
    match assembleLine line, assembleLines rest with
    | some a, some b => some (a ++ b)
    | _, _ => none

/-- A program: one command a line (R79). -/
def assemble (text : List Char) : Option (List HostAction) := assembleLines (pieces '\n' text)

end Sys2Proof.Machine
end

