-- ==== Sys2Proof/Machine/System.lean ====
section
/-! DEFINITION. Several instances of the block (R214): a list of states, each with all of R20 to itself. A step of one
instance is `step` on its state and touches no other; the instances have no identifier the block exposes, so the place
in the list is the modeller's. -/
namespace Sys2Proof.Machine

/-- The instances of a system, `INSTANCES` of them at reset (R8, R214). -/
abbrev System := List State

/-- Every instance after reset. -/
def System.reset : System := List.replicate Config.instances State.reset

/-- One step of instance `k`; `none` where there is no such instance. When the instance's command or read is refused, or it
faults, the whole system has no next state from this step, although R205 and R242 speak of the run of that instance alone
(log 22, DESIGN CHOICE). -/
def System.stepAt (k : Nat) (sys : System) : Option (Host.Outcome System Fault Refusal) :=
  match sys[k]? with
  | none => none
  | some s =>
    match step s with
    | .next t => some (.next (sys.set k t))
    | .fault f => some (.fault f)
    | .refused r => some (.refused r)

end Sys2Proof.Machine
end

