-- ==== Sys2Proof/Safety.lean ====
section
/-! DEFINITION. The invariant of the block (what R23 to R36 say every register holds relative to the others), runs and
what a run shows (R242), in the terms the statements use. -/
namespace Sys2Proof.Machine

/-- The BR unit's registers agree (R21 to R25; that the places of `BS` at and above `BS_LEN` are 0 is the model's choice,
log 11, DESIGN CHOICE): nothing is latched and every element is as at reset; or a BitString is
latched, the cursor is within it (R23), and `RD_STATUS` is 0x01 with no context, or 0x07 with the context of a read that
asked for more than remains. The reserved bits are 0 and no other CODE occurs (R24). -/
def State.brInv (s : State) : Bool :=
  match s.bs, s.bsLen with
  | none, none => s.rdStatus == 0x00#8 && s.cur == 0#10 && s.rdErrA == none && s.rdErrB == none
  | some bs, some len =>
    decide (s.cur.toNat ≤ len.toNat) && firstBits len.toNat bs == bs &&
      (s.rdStatus == 0x01#8 && s.rdErrA == none && s.rdErrB == none ||
        s.rdStatus == 0x07#8 && s.rdErrB == some (context (remaining len s.cur)) &&
          s.rdErrA.any fun w => decide (remaining len s.cur < w.toNat))
  | _, _ => false

/-- `OBUF` and `OBUF_LEN` agree: both `⊥`, or 1 to 127 bytes and their number (R27). -/
def State.obufInv (s : State) : Bool :=
  match s.obuf, s.obufLen with
  | none, none => true
  | some b, some n => b.length == n.toNat && decide (1 ≤ b.length)
  | _, _ => false

/-- `CRC_VALID` says whether `CRC_REG` holds a value, and no checksum exists before one was started (R29, R30). -/
def State.crcInv (s : State) : Bool :=
  match s.crcReg with
  | none => !s.crcValid && s.crcOut == none
  | some _ => s.crcValid

/-- Exactly the first `n` of the three entries hold a value. -/
def firstEntries {α : Type} (v : Vector (Option α) 3) (n : Nat) : Bool :=
  v[0].isSome == decide (0 < n) && v[1].isSome == decide (1 < n) && v[2].isSome == decide (2 < n)

/-- No register of the PR result holds a value (R180). -/
def State.prCleared (s : State) : Bool :=
  s.prMask == none && s.prLevel == none && firstEntries s.prHash 0 && firstEntries s.prDepth 0

/-- The PR unit's registers agree (R31 to R36): before the first PR.DECODE all is as at reset; after a success the mask
is 1, 3 or 7, the level is its level, exactly the first level entries hold a value and there is no error context; after
a failure the code is 1 to 4, the context holds values and no result register does. SUB is 0 but for CODE 3, and the
reserved bits are 0. -/
def State.prInv (s : State) : Bool :=
  if prDone s.prStatus then
    if prCode s.prStatus = 0#3 then
      s.prStatus == 0x01#8 && s.prErrA == none && s.prErrB == none &&
        ((s.prMask == some 1#8 && s.prLevel == some 1#2 && firstEntries s.prHash 1 && firstEntries s.prDepth 1) ||
          (s.prMask == some 3#8 && s.prLevel == some 2#2 && firstEntries s.prHash 2 && firstEntries s.prDepth 2) ||
          (s.prMask == some 7#8 && s.prLevel == some 3#2 && firstEntries s.prHash 3 && firstEntries s.prDepth 3))
    else
      [0x03#8, 0x05#8, 0x07#8, 0x17#8, 0x09#8].contains s.prStatus && s.prErrA.isSome && s.prErrB.isSome &&
        s.prCleared
  else s.prStatus == 0x00#8 && s.prErrA == none && s.prErrB == none && s.prCleared

/-- The invariant of the block; its clause on the places of `BS` past the end is the model's choice (log 11, DESIGN
CHOICE). -/
def State.inv (s : State) : Bool := s.brInv && s.obufInv && s.crcInv && s.prInv

/-- `k` steps, stopping at the first fault or refusal. -/
def runSteps : Nat → State → Result
  | 0, s => .next s
  | k + 1, s =>
    match step s with
    | .next t => runSteps k t
    | .fault f => .fault f
    | .refused r => .refused r

/-- Commands executed one after another, stopping at the first fault or refusal (R66). -/
def runInstrs : List Instr → State → Result
  | [], s => .next s
  | i :: rest, s =>
    match exec i s with
    | .next t => runInstrs rest t
    | .fault f => .fault f
    | .refused r => .refused r

/-- The run of a finite sequence of host actions from reset (R242). -/
def runFrom (acts : List HostAction) : Result := runSteps acts.length (State.reset.withPending acts)

/-- The status registers with their error contexts (R24, R25, R31, R32) and the result registers (R38), which is what a
run shows. Not among them: `BS`, `BS_LEN`, `CUR`, `CRC_REG` and `CRC_VALID` (R42, D11; log 7, DESIGN CHOICE). -/
def shownRegs : List RegName :=
  [.rdStatus, .rdErrA, .rdErrB, .res, .obuf, .obufLen, .crcOut, .prStatus, .prErrA, .prErrB, .prMask, .prLevel,
    .prHash 0, .prHash 1, .prHash 2, .prDepth 0, .prDepth 1, .prDepth 2]

/-- What a run shows: its final state's status and result registers, or nothing when a command or a read was refused
(R242). -/
def observation (acts : List HostAction) : Option (List (Option ReadValue)) :=
  match runFrom acts with
  | .next t => some (shownRegs.map t.readReg)
  | .fault _ => none
  | .refused _ => none

/-- A BitString `bs` of `len` bits is latched: VALID = 1 and `BS`, `BS_LEN` hold it (R24, R100). -/
abbrev State.latched (s : State) (bs : Bits) (len : BitVec 10) : Prop :=
  rdValid s.rdStatus = true ∧ s.bs = some bs ∧ s.bsLen = some len

/-- A BitString is latched and no read of it has failed (R100). -/
abbrev State.readable (s : State) (bs : Bits) (len : BitVec 10) : Prop :=
  s.latched bs len ∧ rdFault s.rdStatus = false

/-- The state a PR.DECODE that fails leaves: the status byte, the context, no result register, all else as it was (R180,
R207). -/
def State.afterFailedDecode (s : State) (status : BitVec 8) (a b : BitVec 16) : State :=
  { s with
    prStatus := status
    prErrA := some a
    prErrB := some b
    prMask := none
    prLevel := none
    prHash := #v[none, none, none]
    prDepth := #v[none, none, none] }

/-- The CRC unit's registers replaced (R29, R30). -/
def State.withCrcUnit (s : State) (reg : Option Word) (valid : Bool) (out : Option (Vector Byte 4)) : State :=
  { s with crcReg := reg, crcValid := valid, crcOut := out }

/-- The reader's registers other than the BitString replaced (R111). -/
def State.withReaderState (s : State) (cur : BitVec 10) (st : BitVec 8) (a b : Option (BitVec 16)) (res : Option Word)
    (obuf : Option (List Byte)) (obufLen : Option (BitVec 7)) : State :=
  { s with cur := cur, rdStatus := st, rdErrA := a, rdErrB := b, res := res, obuf := obuf, obufLen := obufLen }

/-- A function applied to the next state, where there is one. -/
def mapNext (f : State → State) : Result → Result
  | .next t => .next (f t)
  | .fault e => .fault e
  | .refused r => .refused r

end Sys2Proof.Machine
end

