-- ==== Sys2Proof/Certificates/Slice0/Obligations.lean ====
section
/-! DEFINITION. The statements for the provers, from the numbered rules of spec/. Each docstring names the rule or the
section it formalises. -/

open Sys2Proof Sys2Proof.Machine

/-! ## Encoding -/

/-- Every command's word decodes to that command, with every operand at every value its field holds (R72, R73, R76). -/
def Obligations.DecodeEncodeRoundTrip : Prop := ∀ i : Instr, decode (encode i) = .ok i

/-- A word that decodes is the word of the command it decodes to, so no bit of a word is ignored (R72, R73). -/
def Obligations.EncodeDecodeRoundTrip : Prop := ∀ (c : Word) (i : Instr), decode c = .ok i → encode i = c

/-- The command map, row by row: a word is the command exactly when `C & mask = match` (R76), its fields at the bit
positions of its format (R73). -/
def Obligations.CommandMapExact : Prop :=
  ∀ c : Word,
    (∀ len, decode c = .ok (.rdInit len) ↔ c &&& 0xFFFFFC00#32 = 0x00000000#32 ∧ len = c.extractLsb' 0 10) ∧
    (∀ wid, decode c = .ok (.rdUint wid) ↔ c &&& 0xFFFFFFC0#32 = 0x01000000#32 ∧ wid = c.extractLsb' 0 6) ∧
    (∀ nby, decode c = .ok (.rdBuf nby) ↔ c &&& 0xFFFFFF80#32 = 0x02000000#32 ∧ nby = c.extractLsb' 0 7) ∧
    (decode c = .ok .rdRem ↔ c &&& 0xFFFFFFFF#32 = 0x03000000#32) ∧
    (decode c = .ok .rdLen ↔ c &&& 0xFFFFFFFF#32 = 0x04000000#32) ∧
    (∀ val, decode c = .ok (.lmLevel val) ↔ c &&& 0xFFFFFF00#32 = 0x10000000#32 ∧ val = c.extractLsb' 0 8) ∧
    (∀ val apn, decode c = .ok (.lmApply val apn) ↔
      c &&& 0xFFFFF800#32 = 0x11000000#32 ∧ val = c.extractLsb' 0 8 ∧ apn = c.extractLsb' 8 3) ∧
    (∀ val, decode c = .ok (.lmHashcount val) ↔ c &&& 0xFFFFFF00#32 = 0x12000000#32 ∧ val = c.extractLsb' 0 8) ∧
    (decode c = .ok .crcInit ↔ c &&& 0xFFFFFFFF#32 = 0x20000000#32) ∧
    (∀ byte, decode c = .ok (.crcUpdate byte) ↔ c &&& 0xFFFFFF00#32 = 0x21000000#32 ∧ byte = c.extractLsb' 0 8) ∧
    (decode c = .ok .crcFinal ↔ c &&& 0xFFFFFFFF#32 = 0x22000000#32) ∧
    (∀ refs, decode c = .ok (.prDecode refs) ↔ c &&& 0xFFFFFFF8#32 = 0x30000000#32 ∧ refs = c.extractLsb' 0 3)

/-- The reserved words are exactly those of R77 (an unassigned UNIT, an unassigned FUNC of a UNIT, a must-be-zero bit of
R73 set), and a step refuses each with REF_RESERVED; that the refusal also records which of the three cases holds is the
model's choice (log 18). -/
def Obligations.ReservedWordsRefused : Prop :=
  ∀ c : Word,
    (decode c = .error .unit ↔ 4 ≤ (c.extractLsb' 28 4).toNat) ∧
    (decode c = .error .func ↔
      c.extractLsb' 28 4 = 0#4 ∧ 5 ≤ (c.extractLsb' 24 4).toNat ∨
      (c.extractLsb' 28 4 = 1#4 ∨ c.extractLsb' 28 4 = 2#4) ∧ 3 ≤ (c.extractLsb' 24 4).toNat ∨
      c.extractLsb' 28 4 = 3#4 ∧ 1 ≤ (c.extractLsb' 24 4).toNat) ∧
    (decode c = .error .mustBeZero ↔
      c.extractLsb' 24 8 = 0x00#8 ∧ c.extractLsb' 10 14 ≠ 0#14 ∨
      c.extractLsb' 24 8 = 0x01#8 ∧ c.extractLsb' 6 18 ≠ 0#18 ∨
      c.extractLsb' 24 8 = 0x02#8 ∧ c.extractLsb' 7 17 ≠ 0#17 ∨
      (c.extractLsb' 24 8 = 0x03#8 ∨ c.extractLsb' 24 8 = 0x04#8 ∨ c.extractLsb' 24 8 = 0x20#8 ∨
        c.extractLsb' 24 8 = 0x22#8) ∧ c.extractLsb' 0 24 ≠ 0#24 ∨
      (c.extractLsb' 24 8 = 0x10#8 ∨ c.extractLsb' 24 8 = 0x12#8 ∨ c.extractLsb' 24 8 = 0x21#8) ∧
        c.extractLsb' 8 16 ≠ 0#16 ∨
      c.extractLsb' 24 8 = 0x11#8 ∧ c.extractLsb' 11 13 ≠ 0#13 ∨
      c.extractLsb' 24 8 = 0x30#8 ∧ c.extractLsb' 3 21 ≠ 0#21) ∧
    ∀ why, decode c = .error why → ∀ (s : State) (p : DataPort) (rest : List HostAction),
      s.pending = .command c p :: rest → step s = .refused (.reserved why)

/-- Words the test vectors of the spec write out, one for each command, and the nine reserved words they name (V40 to V43,
X25, X26, P43, P44 and 0x10000100 of section 3); which case a reserved word is recorded under is the model's choice
(log 18, DESIGN CHOICE). -/
def Obligations.SpecWordsDecode : Prop :=
  decode 0x00000018#32 = .ok (.rdInit 24) ∧ decode 0x01000008#32 = .ok (.rdUint 8) ∧
  decode 0x02000001#32 = .ok (.rdBuf 1) ∧ decode 0x03000000#32 = .ok .rdRem ∧ decode 0x04000000#32 = .ok .rdLen ∧
  decode 0x10000005#32 = .ok (.lmLevel 5) ∧ decode 0x110003AA#32 = .ok (.lmApply 170 3) ∧
  decode 0x12000080#32 = .ok (.lmHashcount 128) ∧ decode 0x20000000#32 = .ok .crcInit ∧
  decode 0x21000031#32 = .ok (.crcUpdate 0x31) ∧ decode 0x22000000#32 = .ok .crcFinal ∧
  decode 0x30000005#32 = .ok (.prDecode 5) ∧
  decode 0x01000048#32 = .error .mustBeZero ∧ decode 0x00000400#32 = .error .mustBeZero ∧
  decode 0x05000000#32 = .error .func ∧ decode 0x23000000#32 = .error .func ∧ decode 0x31000000#32 = .error .func ∧
  decode 0x40000000#32 = .error .unit ∧
  decode 0x21000100#32 = .error .mustBeZero ∧ decode 0x30000008#32 = .error .mustBeZero ∧
  decode 0x10000100#32 = .error .mustBeZero

/-! ## Steps, the host and reset -/

/-- A step whose oldest host action is a command word that decodes runs that command, on the state with the action taken
off the queue and the data port driven as the host drives it (log 2; R66, R70). -/
def Obligations.StepRunsDecodedCommand : Prop :=
  ∀ (s : State) (c : Word) (p : DataPort) (rest : List HostAction) (i : Instr),
    s.pending = .command c p :: rest → decode c = .ok i →
    step s = exec i { s with pending := rest, port := p }

/-- With nothing asked of it, the block waits: a step changes nothing (R231; that this is a step at all is the model's
choice, log 3). -/
def Obligations.WaitingChangesNothing : Prop := ∀ s : State, s.pending = [] → step s = .next s

/-- A command or read sees nothing of what the host asks later: with more actions behind it, a step does the same and
leaves them queued (R66: every command reads the state left by those before it and none after it; the queue is the
model's, log 2). -/
def Obligations.StepReadsNoLaterAction : Prop :=
  ∀ (s : State) (a : HostAction) (rest : List HostAction),
    step (s.withPending (a :: rest)) = mapNext (fun t => t.withPending rest) (step (s.withPending [a]))

/-- A host read: a register that holds no value is refused with REF_NO_VALUE, one that holds a value gives that value to
the host, and the read changes no register (R12, R40; that every element is readable, and the place its value goes to,
are the model's choices, logs 7 and 6). -/
def Obligations.HostReadGivesValueOrRefusal : Prop :=
  ∀ (s : State) (r : RegName) (rest : List HostAction), s.pending = .read r :: rest →
    ((step s = .refused .noValue ∧
        match r with
        | .bs => s.bs = none ∨ s.bsLen = none
        | .bsLen => s.bsLen = none
        | .rdErrA => s.rdErrA = none
        | .rdErrB => s.rdErrB = none
        | .res => s.res = none
        | .obuf => s.obuf = none
        | .obufLen => s.obufLen = none
        | .crcReg => s.crcReg = none
        | .crcOut => s.crcOut = none
        | .prErrA => s.prErrA = none
        | .prErrB => s.prErrB = none
        | .prMask => s.prMask = none
        | .prLevel => s.prLevel = none
        | .prHash i => s.prHash[i] = none
        | .prDepth i => s.prDepth[i] = none
        | .cur => False
        | .rdStatus => False
        | .crcValid => False
        | .prStatus => False) ∨
      ∃ v, step s = .next { s with pending := rest, readOut := some v } ∧
        match r with
        | .bs => ∃ bs len, s.bs = some bs ∧ s.bsLen = some len ∧
            v = .bits ((List.range len.toNat).map fun i => bs.getLsbD i)
        | .bsLen => ∃ x, s.bsLen = some x ∧ v = .num x.toNat
        | .rdErrA => ∃ x, s.rdErrA = some x ∧ v = .num x.toNat
        | .rdErrB => ∃ x, s.rdErrB = some x ∧ v = .num x.toNat
        | .res => ∃ x, s.res = some x ∧ v = .num x.toNat
        | .obuf => ∃ x, s.obuf = some x ∧ v = .bytes x
        | .obufLen => ∃ x, s.obufLen = some x ∧ v = .num x.toNat
        | .crcReg => ∃ x, s.crcReg = some x ∧ v = .num x.toNat
        | .crcOut => ∃ x, s.crcOut = some x ∧ v = .bytes x.toList
        | .prErrA => ∃ x, s.prErrA = some x ∧ v = .num x.toNat
        | .prErrB => ∃ x, s.prErrB = some x ∧ v = .num x.toNat
        | .prMask => ∃ x, s.prMask = some x ∧ v = .num x.toNat
        | .prLevel => ∃ x, s.prLevel = some x ∧ v = .num x.toNat
        | .prHash i => ∃ x, s.prHash[i] = some x ∧ v = .bytes x.toList
        | .prDepth i => ∃ x, s.prDepth[i] = some x ∧ v = .num x.toNat
        | .cur => v = .num s.cur.toNat
        | .rdStatus => v = .num s.rdStatus.toNat
        | .crcValid => v = .num s.crcValid.toNat
        | .prStatus => v = .num s.prStatus.toNat)

/-- The reset values of R41. -/
def Obligations.ResetValues : Prop :=
  State.reset.bs = none ∧ State.reset.bsLen = none ∧ State.reset.cur = 0#10 ∧ State.reset.rdStatus = 0x00#8 ∧
  State.reset.rdErrA = none ∧ State.reset.rdErrB = none ∧ State.reset.res = none ∧ State.reset.obuf = none ∧
  State.reset.obufLen = none ∧ State.reset.crcReg = none ∧ State.reset.crcValid = false ∧ State.reset.crcOut = none ∧
  State.reset.prStatus = 0x00#8 ∧ State.reset.prErrA = none ∧ State.reset.prErrB = none ∧
  State.reset.prMask = none ∧ State.reset.prLevel = none ∧
  (∀ i : Fin 3, State.reset.prHash[i] = none) ∧ ∀ i : Fin 3, State.reset.prDepth[i] = none

/-- The reset event: from every state, a reset gives every element of R20 its value of R41; what the host still asks
stays (R230; that the host's side stays is the model's choice, log 16). -/
def Obligations.ResetEventSetsResetValues : Prop :=
  ∀ (s : State) (rest : List HostAction), s.pending = .reset :: rest →
    step s = .next { State.reset with pending := rest, port := s.port, readOut := s.readOut }

/-- After reset only RD.INIT, CRC.INIT and the LM commands have a behaviour; every other command is refused with the
reason R232 names, whatever its operands, and every result register read is refused (that RD.INIT needs only the wires it
takes to be stable is the model's reading, log 5). -/
def Obligations.AfterResetOnlyInitsRun : Prop :=
  ∀ (s : State), (∃ p rest o, s = { State.reset with port := p, pending := rest, readOut := o }) →
    (∀ len, (∀ i < len.toNat, s.port.moving.getLsbD i = false) → ∃ t, exec (.rdInit len) s = .next t) ∧
    (∃ t, exec .crcInit s = .next t) ∧
    (∀ v, ∃ t, exec (.lmLevel v) s = .next t) ∧ (∀ v n, ∃ t, exec (.lmApply v n) s = .next t) ∧
    (∀ v, ∃ t, exec (.lmHashcount v) s = .next t) ∧
    (∀ w, exec (.rdUint w) s = .refused .noBitstring) ∧ (∀ n, exec (.rdBuf n) s = .refused .noBitstring) ∧
    exec .rdRem s = .refused .noBitstring ∧ exec .rdLen s = .refused .noBitstring ∧
    (∀ r, exec (.prDecode r) s = .refused .noBitstring) ∧
    (∀ b, exec (.crcUpdate b) s = .refused .crcUninit) ∧ exec .crcFinal s = .refused .crcUninit ∧
    ∀ r ∈ [RegName.res, .obuf, .obufLen, .crcOut, .prErrA, .prErrB, .prMask, .prLevel, .prHash 0, .prHash 1,
      .prHash 2, .prDepth 0, .prDepth 1, .prDepth 2], step (s.withPending [.read r]) = .refused .noValue

/-- A run in which something was refused shows nothing, however it would have gone on (R242). -/
def Obligations.RefusedRunShowsNothing : Prop :=
  ∀ (done later : List HostAction) (r : Refusal), runFrom done = .refused r → observation (done ++ later) = none

/-- A step of one instance changes no other (R214; the list of instances is the model's form, log 1). -/
def Obligations.InstancesAreIndependent : Prop :=
  ∀ (sys sys' : System) (k : Nat), sys.stepAt k = some (.next sys') →
    (∃ s t, sys[k]? = some s ∧ step s = .next t ∧ sys'[k]? = some t) ∧ ∀ j, j ≠ k → sys'[j]? = sys[j]?

/-! ## BR unit -/

/-- RD.INIT completes and latches: `BS_LEN`, the port's bits below it, cursor 0, `RD_STATUS` = VALID, no error context;
nothing else changes, and a port that differs only in wires at `LEN` and above, which are not sampled, gives the same
(R101; that RD.INIT completes although a wire at `LEN` or above moves is the model's reading, log 5, DEDUCED). -/
def Obligations.RdInitLatchesThePort : Prop :=
  ∀ (len : BitVec 10) (s : State), (∀ i < len.toNat, s.port.moving.getLsbD i = false) →
    ∃ (t : State) (bs : Bits), exec (.rdInit len) s = .next t ∧
      t.bs = some bs ∧ (∀ i < len.toNat, bs.getLsbD i = s.port.level.getLsbD i) ∧
      t = { s with bs := t.bs, bsLen := some len, cur := 0#10, rdStatus := 0x01#8, rdErrA := none, rdErrB := none } ∧
      ∀ q : DataPort,
        (∀ i < len.toNat,
          q.level.getLsbD i = s.port.level.getLsbD i ∧ q.moving.getLsbD i = s.port.moving.getLsbD i) →
        exec (.rdInit len) (s.drive q) = .next (t.drive q)

/-- RD.INIT is refused with REF_PORT_UNSTABLE when a wire it takes moves while it is issued (R71, R237; that only the
wires below LEN count is the model's reading, log 5). -/
def Obligations.RdInitRefusesMovingPort : Prop :=
  ∀ (len : BitVec 10) (s : State) (i : Nat), i < len.toNat → s.port.moving.getLsbD i = true →
    exec (.rdInit len) s = .refused .portUnstable

/-- RD.UINT completes when the bits remain: the bit at the cursor is the most significant bit of `RES`, the last bit read
the least significant, higher bits are 0, the cursor advances by the bits read and nothing else changes (R53, R102). -/
def Obligations.RdUintReadsBigEndian : Prop :=
  ∀ (wid : BitVec 6) (s : State) (bs : Bits) (len : BitVec 10), s.readable bs len →
    1 ≤ wid.toNat → wid.toNat ≤ 32 → s.cur.toNat + wid.toNat ≤ len.toNat →
    ∃ (t : State) (v : Word), exec (.rdUint wid) s = .next t ∧ t.res = some v ∧
      (∀ i < wid.toNat, v.getLsbD (wid.toNat - 1 - i) = bs.getLsbD (s.cur.toNat + i)) ∧
      (∀ j, wid.toNat ≤ j → v.getLsbD j = false) ∧
      t.cur.toNat = s.cur.toNat + wid.toNat ∧ t = { s with res := t.res, cur := t.cur }

/-- RD.BUF completes when all its bits remain: byte `j` is bits `c+8j..c+8j+7`, the lowest offset in bit 7; `OBUF_LEN`
and the cursor follow and nothing else changes, `RES` among it (R54, R103). -/
def Obligations.RdBufReadsBytes : Prop :=
  ∀ (nby : BitVec 7) (s : State) (bs : Bits) (len : BitVec 10), s.readable bs len →
    1 ≤ nby.toNat → s.cur.toNat + 8 * nby.toNat ≤ len.toNat →
    ∃ (t : State) (b : List Byte), exec (.rdBuf nby) s = .next t ∧ t.obuf = some b ∧ b.length = nby.toNat ∧
      (∀ j < nby.toNat, ∀ k < 8, (b.getD j 0#8).getLsbD (7 - k) = bs.getLsbD (s.cur.toNat + 8 * j + k)) ∧
      t.cur.toNat = s.cur.toNat + 8 * nby.toNat ∧
      t = { s with obuf := t.obuf, obufLen := some nby, cur := t.cur }

/-- Bounds failure, shared by RD.UINT and RD.BUF: with fewer bits left than asked for, the command completes, FAULT and
CODE become 1, the context is the bits asked and the bits left, the result register becomes `⊥`, and the cursor and all
else stay (R106; that the reserved bits stay in a state where one is 1 is the model's reading, log 15, DEDUCED). -/
def Obligations.BoundsFailureIsReported : Prop :=
  ∀ (s : State) (bs : Bits) (len : BitVec 10), s.readable bs len → s.cur.toNat ≤ len.toNat →
    (∀ wid : BitVec 6, 1 ≤ wid.toNat → wid.toNat ≤ 32 → len.toNat - s.cur.toNat < wid.toNat →
      exec (.rdUint wid) s = .next { s with
        rdStatus := (s.rdStatus &&& 0xE1#8) ||| 0x06#8
        rdErrA := some (BitVec.ofNat 16 wid.toNat)
        rdErrB := some (BitVec.ofNat 16 (len.toNat - s.cur.toNat))
        res := none }) ∧
    ∀ nby : BitVec 7, 1 ≤ nby.toNat → len.toNat - s.cur.toNat < 8 * nby.toNat →
      exec (.rdBuf nby) s = .next { s with
        rdStatus := (s.rdStatus &&& 0xE1#8) ||| 0x06#8
        rdErrA := some (BitVec.ofNat 16 (8 * nby.toNat))
        rdErrB := some (BitVec.ofNat 16 (len.toNat - s.cur.toNat))
        obuf := none
        obufLen := none }

/-- The preconditions of the BR reads: refused with REF_NO_BITSTRING while VALID = 0; after a fault RD.UINT, RD.BUF and
RD.REM are refused with REF_AFTER_FAULT, whatever their operands, and RD.LEN is still admitted (R100). -/
def Obligations.BrReadPreconditions : Prop :=
  ∀ s : State,
    (rdValid s.rdStatus = false →
      (∀ w, exec (.rdUint w) s = .refused .noBitstring) ∧ (∀ n, exec (.rdBuf n) s = .refused .noBitstring) ∧
      exec .rdRem s = .refused .noBitstring ∧ exec .rdLen s = .refused .noBitstring) ∧
    ∀ bs len, s.latched bs len → rdFault s.rdStatus = true →
      (∀ w, exec (.rdUint w) s = .refused .afterFault) ∧ (∀ n, exec (.rdBuf n) s = .refused .afterFault) ∧
      exec .rdRem s = .refused .afterFault ∧ ∃ t, exec .rdLen s = .next t

/-- Operand values the word can hold but the block does not admit are refused: WID 0 or at least 33, NBY 0, REFS at
least 5 (R75). -/
def Obligations.InadmissibleOperandsRefused : Prop :=
  ∀ (s : State) (bs : Bits) (len : BitVec 10),
    (s.readable bs len → ∀ wid : BitVec 6, wid.toNat = 0 ∨ 33 ≤ wid.toNat → exec (.rdUint wid) s = .refused .width) ∧
    (s.readable bs len → exec (.rdBuf 0#7) s = .refused .width) ∧
    (s.latched bs len → ∀ refs : BitVec 3, 5 ≤ refs.toNat → exec (.prDecode refs) s = .refused .refsRange)

/-- RD.REM: refused without a BitString or after a fault, else it completes and `RES` is the bits remaining; nothing else
changes (R104). -/
def Obligations.RdRemCountsRemaining : Prop :=
  ∀ s : State,
    (rdValid s.rdStatus = false → exec .rdRem s = .refused .noBitstring) ∧
    ∀ bs len, s.latched bs len → s.cur.toNat ≤ len.toNat →
      (rdFault s.rdStatus = true → exec .rdRem s = .refused .afterFault) ∧
      (rdFault s.rdStatus = false →
        ∃ v : Word, exec .rdRem s = .next { s with res := some v } ∧ v.toNat + s.cur.toNat = len.toNat)

/-- RD.LEN: refused without a BitString, else it completes, after a fault too, and `RES` is the total length; nothing
else changes (R105). -/
def Obligations.RdLenGivesLength : Prop :=
  ∀ s : State,
    (rdValid s.rdStatus = false → exec .rdLen s = .refused .noBitstring) ∧
    ∀ bs len, s.latched bs len →
      ∃ v : Word, exec .rdLen s = .next { s with res := some v } ∧ v.toNat = len.toNat

/-- The cursor never passes the end: every step, of a command of any unit, a read or a reset, keeps 0 ≤ CUR ≤ BS_LEN
while VALID = 1 (R23, R107). -/
def Obligations.CursorNeverPassesEnd : Prop :=
  ∀ s t : State,
    (rdValid s.rdStatus = true → ∀ len, s.bsLen = some len → s.cur.toNat ≤ len.toNat) → step s = .next t →
    (rdValid t.rdStatus = true → ∀ len, t.bsLen = some len → t.cur.toNat ≤ len.toNat)

/-- No command but RD.INIT moves the cursor backwards, and none skips bits without reading them: the cursor moves only by
RD.UINT, by the bits it read into `RES`, and by RD.BUF, by the bits it read into `OBUF` (R108). -/
def Obligations.CursorMovesOnlyByReads : Prop :=
  ∀ (i : Instr) (s t : State), (∀ len, i ≠ .rdInit len) → exec i s = .next t → t.cur ≠ s.cur →
    (∃ wid, i = .rdUint wid ∧ t.res.isSome = true ∧ t.cur.toNat = s.cur.toNat + wid.toNat) ∨
    ∃ nby, i = .rdBuf nby ∧ t.obuf.isSome = true ∧ t.cur.toNat = s.cur.toNat + 8 * nby.toNat

/-- Consecutive integer reads concatenate (R109). -/
def Obligations.ConsecutiveReadsConcatenate : Prop :=
  ∀ (a b ab : BitVec 6) (s t u : State) (r1 r2 : Word), ab.toNat = a.toNat + b.toNat → ab.toNat ≤ 32 →
    exec (.rdUint a) s = .next t → t.res = some r1 → exec (.rdUint b) t = .next u → u.res = some r2 →
    ∃ (w : State) (r : Word), exec (.rdUint ab) s = .next w ∧ w.res = some r ∧
      r1.toNat * 2 ^ b.toNat + r2.toNat = r.toNat ∧
      u.cur = w.cur ∧ u.cur.toNat = s.cur.toNat + a.toNat + b.toNat

/-- A buffer read equals byte reads: each byte is what RD.UINT 8 would return from its place, and the buffer read fails
exactly when the last of the byte reads would, where the cursor can hold that read's place, at most 1023 (R110). -/
def Obligations.BufferReadEqualsByteReads : Prop :=
  ∀ (k : BitVec 7) (s : State),
    (∀ (t : State) (b : List Byte), exec (.rdBuf k) s = .next t → t.obuf = some b →
      t.cur.toNat = s.cur.toNat + 8 * k.toNat ∧
      ∀ j < k.toNat, ∃ (w : State) (r : Word),
        exec (.rdUint 8) { s with cur := s.cur + BitVec.ofNat 10 (8 * j) } = .next w ∧ w.res = some r ∧
          r.toNat = (b.getD j 0#8).toNat) ∧
    ∀ bs len, s.readable bs len → 1 ≤ k.toNat → s.cur.toNat + 8 * (k.toNat - 1) ≤ 1023 →
      ((∃ t, exec (.rdBuf k) s = .next t ∧ t.obuf = none) ↔
        ∃ w, exec (.rdUint 8) { s with cur := s.cur + BitVec.ofNat 10 (8 * (k.toNat - 1)) } = .next w ∧ w.res = none)

/-- Mixed widths see the same bits (R58). -/
def Obligations.MixedWidthsSeeSameBits : Prop :=
  ∀ (bs : Bits) (c : Nat),
    (∀ a b, 1 ≤ a → 1 ≤ b → a + b ≤ 32 → uintAt bs c (a + b) = uintAt bs c a * 2 ^ b + uintAt bs (c + a) b) ∧
    (∀ k j, j < k → ((bytesAt bs c k).getD j 0#8).toNat = uintAt bs (c + 8 * j) 8) ∧
    uintAt bs c 16 = uintAt bs c 8 * 256 + uintAt bs (c + 8) 8

/-- The host's byte view of the data port: bit `i` is bit `7 - (i mod 8)` of byte `i div 8`, so that reading `k` whole
bytes from offset 0 returns the host's bytes unchanged (R55). -/
def Obligations.HostPackingReadsBack : Prop :=
  ∀ b : List Byte,
    (∀ i < 1023, i / 8 < b.length → (portOfBytes b).getLsbD i = (b.getD (i / 8) 0#8).getLsbD (7 - i % 8)) ∧
    ∀ k ≤ 127, k ≤ b.length → bytesAt (portOfBytes b) 0 k = b.take k

/-- The BR unit stays faulted until the next RD.INIT, which clears it; the PR unit keeps its status and context until the
next PR.DECODE, which overwrites them (R209). -/
def Obligations.FaultLastsUntilRdInit : Prop :=
  ∀ (i : Instr) (s t : State), exec i s = .next t →
    (rdFault s.rdStatus = true → (∀ len, i ≠ .rdInit len) → rdFault t.rdStatus = true) ∧
    (∀ len, i = .rdInit len → rdFault t.rdStatus = false) ∧
    ((∀ refs, i ≠ .prDecode refs) → t.prStatus = s.prStatus ∧ t.prErrA = s.prErrA ∧ t.prErrB = s.prErrB) ∧
    (∀ refs, i = .prDecode refs → ∀ st a b,
      exec i { s with prStatus := st, prErrA := a, prErrB := b } = .next t)

/-- Which commands write which register, for all commands at once: a register changes only by the commands R21 to R35
name for it, and no command touches the host's side. -/
def Obligations.OnlyNamedCommandsWrite : Prop :=
  ∀ (i : Instr) (s t : State), exec i s = .next t →
    ((∀ l, i ≠ .rdInit l) → t.bs = s.bs ∧ t.bsLen = s.bsLen) ∧
    ((∀ l, i ≠ .rdInit l) → (∀ w, i ≠ .rdUint w) → (∀ n, i ≠ .rdBuf n) →
      t.cur = s.cur ∧ t.rdStatus = s.rdStatus ∧ t.rdErrA = s.rdErrA ∧ t.rdErrB = s.rdErrB) ∧
    ((∀ w, i ≠ .rdUint w) → i ≠ .rdRem → i ≠ .rdLen → (∀ v, i ≠ .lmLevel v) → (∀ v n, i ≠ .lmApply v n) →
      (∀ v, i ≠ .lmHashcount v) → t.res = s.res) ∧
    ((∀ n, i ≠ .rdBuf n) → t.obuf = s.obuf ∧ t.obufLen = s.obufLen) ∧
    (i ≠ .crcInit → (∀ b, i ≠ .crcUpdate b) → t.crcReg = s.crcReg) ∧ (i ≠ .crcInit → t.crcValid = s.crcValid) ∧
    (i ≠ .crcFinal → t.crcOut = s.crcOut) ∧
    ((∀ r, i ≠ .prDecode r) →
      t.prStatus = s.prStatus ∧ t.prErrA = s.prErrA ∧ t.prErrB = s.prErrB ∧ t.prMask = s.prMask ∧
      t.prLevel = s.prLevel ∧ t.prHash = s.prHash ∧ t.prDepth = s.prDepth) ∧
    t.pending = s.pending ∧ t.port = s.port ∧ t.readOut = s.readOut

/-! ## LM unit -/

/-- LM.LEVEL completes in every state: `RES` is 0 for 0, else 1 plus the position of the highest set bit of the whole
value; nothing else changes (R130, R133). -/
def Obligations.LmLevelIsHighestSetBit : Prop :=
  ∀ (v : BitVec 8) (s : State), ∃ r : Word, exec (.lmLevel v) s = .next { s with res := some r } ∧
    (v = 0#8 → r = 0#32) ∧
    (v ≠ 0#8 → ∃ k, r.toNat = 1 + k ∧ v.getLsbD k = true ∧ ∀ j, k < j → v.getLsbD j = false)

/-- LM.APPLY completes in every state: `RES` keeps the bits of the value at positions up to `n` and no other; nothing
else changes (R131, R134). -/
def Obligations.LmApplyKeepsLowBits : Prop :=
  ∀ (v : BitVec 8) (n : BitVec 3) (s : State), ∃ r : Word, exec (.lmApply v n) s = .next { s with res := some r } ∧
    ∀ j, r.getLsbD j = (decide (j ≤ n.toNat) && v.getLsbD j)

/-- LM.HASHCOUNT completes in every state: `RES` is the number of set bits of the value; nothing else changes (R132,
R135). -/
def Obligations.LmHashcountCountsSetBits : Prop :=
  ∀ (v : BitVec 8) (s : State), ∃ r : Word, exec (.lmHashcount v) s = .next { s with res := some r } ∧
    r.toNat = (Finset.univ.filter fun j : Fin 8 => v.getLsbD j.val = true).card

/-- The laws of the LM functions on every value but 0 (R137). -/
def Obligations.LevelMaskLaws : Prop :=
  ∀ v : BitVec 8, v ≠ 0#8 →
    applyMask v (level v - 1) = v ∧ hashCount (applyMask v (level v - 1)) = hashCount v ∧
    hashCount v ≤ level v ∧ (hashCount v = level v ↔ v.toNat = 2 ^ level v - 1) ∧
    (level v ≤ 3 ↔ v.toNat ≤ 7) ∧ ∀ n, level (applyMask v n) ≤ n + 1

/-! ## CRC unit -/

/-- CRC.INIT completes in every state: the register is 0xFFFFFFFF and valid; nothing else changes (R153). -/
def Obligations.CrcInitStartsChecksum : Prop :=
  ∀ s : State, exec .crcInit s = .next { s with crcReg := some 0xFFFFFFFF#32, crcValid := true }

/-- CRC.UPDATE: refused before the first CRC.INIT, else it completes and the register is `r XOR zext_32(x)` after eight
steps of a logical right shift, each with the polynomial XORed in when the bit shifted out is 1; nothing else changes
(R151, R154; where the byte enters the register is the spec's general knowledge, G1, log 13, PRESUMED). -/
def Obligations.CrcUpdateTakesOneByte : Prop :=
  ∀ (x : BitVec 8) (s : State),
    (s.crcValid = false → exec (.crcUpdate x) s = .refused .crcUninit) ∧
    ∀ r, s.crcValid = true → s.crcReg = some r →
      exec (.crcUpdate x) s = .next { s with
        crcReg := some
          ((fun q : Word => if q.getLsbD 0 = true then (q >>> 1) ^^^ 0x82F63B78#32 else q >>> 1)^[8]
            (r ^^^ x.setWidth 32)) }

/-- CRC.FINAL: refused before the first CRC.INIT, else it completes and the four bytes of `CRC_OUT`, the first the least
significant, are the register's complement; nothing else changes, the register among it (R152, R155). -/
def Obligations.CrcFinalLittleEndian : Prop :=
  ∀ s : State,
    (s.crcValid = false → exec .crcFinal s = .refused .crcUninit) ∧
    ∀ r, s.crcValid = true → s.crcReg = some r →
      ∃ o : Vector Byte 4, exec .crcFinal s = .next { s with crcOut := some o } ∧
        o[0].toNat + 256 * o[1].toNat + 65536 * o[2].toNat + 16777216 * o[3].toNat =
          (r ^^^ 0xFFFFFFFF#32).toNat

/-- CRC.INIT, CRC.UPDATE of each byte in order and CRC.FINAL, with any commands of other units between them, leave
`crc32c` of the bytes in `CRC_OUT` (R156). -/
def Obligations.CrcStreamComputesCrc32c : Prop :=
  ∀ (prog : List Instr) (b : List Byte) (s t : State),
    prog.filter Instr.isCrc = .crcInit :: (b.map Instr.crcUpdate ++ [.crcFinal]) → runInstrs prog s = .next t →
    t.crcOut = some (crc32c b)

/-- The expansion of `crc.buf` runs to its end from every state and every byte sequence, and leaves `crc32c` of the bytes
in `CRC_OUT` (R80, R157); on no bytes that is 00 00 00 00 and on "123456789" 83 92 06 E3, the source's two check values
(95_test_vectors.md X1, X2). -/
def Obligations.CrcBufAlwaysCompletes : Prop :=
  (∀ (b : List Byte) (s : State), ∃ t, runInstrs (crcBufInstrs b) s = .next t ∧ t.crcOut = some (crc32c b)) ∧
  crc32c [] = #v[0x00#8, 0x00#8, 0x00#8, 0x00#8] ∧
  crc32c [0x31#8, 0x32#8, 0x33#8, 0x34#8, 0x35#8, 0x36#8, 0x37#8, 0x38#8, 0x39#8] =
    #v[0x83#8, 0x92#8, 0x06#8, 0xE3#8]

/-- CRC.FINAL does not end the stream: bytes after it extend the old checksum (R155, R238). -/
def Obligations.CrcFinalDoesNotEndStream : Prop :=
  ∀ (a b : List Byte) (s : State),
    ∃ t, runInstrs (crcBufInstrs a ++ (b.map Instr.crcUpdate ++ [.crcFinal])) s = .next t ∧
      t.crcOut = some (crc32c (a ++ b))

/-- The CRC unit reads no other unit's state, and no other unit reads the CRC unit's (R158). -/
def Obligations.CrcUnitIsStandalone : Prop :=
  (∀ (i : Instr) (s u : State), i.isCrc = true → u.crcReg = s.crcReg → u.crcValid = s.crcValid →
    u.crcOut = s.crcOut →
    exec i u = mapNext (fun t => u.withCrcUnit t.crcReg t.crcValid t.crcOut) (exec i s)) ∧
  ∀ (i : Instr) (s : State) (reg : Option Word) (valid : Bool) (out : Option (Vector Byte 4)), i.isCrc = false →
    exec i (s.withCrcUnit reg valid out) = mapNext (fun t => t.withCrcUnit reg valid out) (exec i s)

/-! ## PR unit -/

/-- PR.DECODE's preconditions: refused without a BitString whatever REFS is, then for REFS 5 to 7; `RD_STATUS.FAULT` does
not matter (R171). -/
def Obligations.PrDecodePreconditions : Prop :=
  ∀ (refs : BitVec 3) (s : State),
    (rdValid s.rdStatus = false → exec (.prDecode refs) s = .refused .noBitstring) ∧
    (∀ bs len, s.latched bs len → 5 ≤ refs.toNat → exec (.prDecode refs) s = .refused .refsRange) ∧
    ∀ bs len, s.latched bs len → refs.toNat ≤ 4 → ∃ t, exec (.prDecode refs) s = .next t

/-- PR.DECODE neither reads nor writes the reader's cursor, status (but for VALID), error context, `RES` or `OBUF`: with
those replaced it does the same (R172). -/
def Obligations.PrDecodeIgnoresReader : Prop :=
  ∀ (refs : BitVec 3) (s : State) (cur : BitVec 10) (st : BitVec 8) (a b : Option (BitVec 16)) (res : Option Word)
    (obuf : Option (List Byte)) (obufLen : Option (BitVec 7)), rdValid st = rdValid s.rdStatus →
    exec (.prDecode refs) (s.withReaderState cur st a b res obuf obufLen) =
      mapNext (fun t => t.withReaderState cur st a b res obuf obufLen) (exec (.prDecode refs) s)

/-- Step 1: fewer than 8 bits is OutOfBounds, a type byte other than 1 is InvalidCellType, whatever REFS is (R173). -/
def Obligations.PrDecodeTypeGate : Prop :=
  ∀ (refs : BitVec 3) (s : State) (bs : Bits) (len : BitVec 10), s.latched bs len → refs.toNat ≤ 4 →
    (len.toNat < 8 →
      exec (.prDecode refs) s = .next (s.afterFailedDecode 0x03#8 8#16 (BitVec.ofNat 16 len.toNat))) ∧
    (8 ≤ len.toNat → uintAt bs 0 8 ≠ 1 →
      exec (.prDecode refs) s = .next (s.afterFailedDecode 0x05#8 1#16 (BitVec.ofNat 16 (uintAt bs 0 8))))

/-- Step 2: a reference list that is not empty is InvalidStructure with SUB 0, at every length from 8 on, 280 among them,
before any length test (R174). -/
def Obligations.PrDecodeRefsGate : Prop :=
  ∀ (refs : BitVec 3) (s : State) (bs : Bits) (len : BitVec 10), s.latched bs len → refs.toNat ≤ 4 →
    refs.toNat ≠ 0 → 8 ≤ len.toNat → uintAt bs 0 8 = 1 →
    exec (.prDecode refs) s = .next (s.afterFailedDecode 0x07#8 0#16 (refs.setWidth 16))

/-- Step 4: at a length other than 280, no room for the mask byte is OutOfBounds, a mask byte of 0 or at least 8 is
InvalidLevel with the mask and its level, and no other mask byte is (R176). -/
def Obligations.PrDecodeMaskGate : Prop :=
  ∀ (s : State) (bs : Bits) (len : BitVec 10), s.latched bs len → 8 ≤ len.toNat → len.toNat ≠ 280 →
    uintAt bs 0 8 = 1 →
    (len.toNat ≤ 15 →
      exec (.prDecode 0) s = .next (s.afterFailedDecode 0x03#8 8#16 (BitVec.ofNat 16 (len.toNat - 8)))) ∧
    ∀ m : BitVec 8, 16 ≤ len.toNat → m.toNat = uintAt bs 8 8 →
      (m.toNat = 0 ∨ 8 ≤ m.toNat →
        exec (.prDecode 0) s =
          .next (s.afterFailedDecode 0x09#8 (m.setWidth 16) (BitVec.ofNat 16 (level m)))) ∧
      (1 ≤ m.toNat → m.toNat ≤ 7 → ∃ t, exec (.prDecode 0) s = .next t ∧ prCode t.prStatus ≠ 4#3)

/-- Step 5: for a mask 1 to 7 the size is 16 + 272 times its number of set bits, and a length that is not exactly it, be
it one bit short or long, is InvalidStructure with SUB 1; at exactly that length there is no such error (R177). -/
def Obligations.PrDecodeSizeGate : Prop :=
  ∀ (s : State) (bs : Bits) (len : BitVec 10) (m : BitVec 8), s.latched bs len → 16 ≤ len.toNat → len.toNat ≠ 280 →
    uintAt bs 0 8 = 1 → m.toNat = uintAt bs 8 8 → 1 ≤ m.toNat → m.toNat ≤ 7 →
    8 + 8 + hashCount (applyMask m (level m - 1)) * (256 + 16) = 16 + 272 * hashCount m ∧
    (len.toNat ≠ 16 + 272 * hashCount m →
      exec (.prDecode 0) s =
        .next (s.afterFailedDecode 0x17#8 (BitVec.ofNat 16 (16 + 272 * hashCount m)) (BitVec.ofNat 16 len.toNat))) ∧
    (len.toNat = 16 + 272 * hashCount m →
      ∃ t, exec (.prDecode 0) s = .next t ∧ prCode t.prStatus ≠ 3#3)

/-- Masks 2, 4, 5 and 6 never decode: at the one length the size check admits, a hash read runs off the end, with 16 bits
left for masks 2 and 4 and 32 for masks 5 and 6; at any other length the size check fails (R183). -/
def Obligations.PrDecodeGappedMasksNeverDecode : Prop :=
  ∀ (s : State) (bs : Bits) (len : BitVec 10) (m : BitVec 8), s.latched bs len → 16 ≤ len.toNat → len.toNat ≠ 280 →
    uintAt bs 0 8 = 1 → m.toNat = uintAt bs 8 8 →
    (m = 2#8 ∨ m = 4#8 →
      exec (.prDecode 0) s = .next
        (if len.toNat = 288 then s.afterFailedDecode 0x03#8 256#16 16#16
         else s.afterFailedDecode 0x17#8 288#16 (BitVec.ofNat 16 len.toNat))) ∧
    (m = 5#8 ∨ m = 6#8 →
      exec (.prDecode 0) s = .next
        (if len.toNat = 560 then s.afterFailedDecode 0x03#8 256#16 32#16
         else s.afterFailedDecode 0x17#8 560#16 (BitVec.ofNat 16 len.toNat)))

/-- A normal-layout cell with mask 1, 3 or 7 and the exact length decodes: all hashes, then all depths, each big-endian,
in index order; entries past the level, and the error context, are `⊥`; nothing outside the PR unit changes (R81, R178,
R179). -/
def Obligations.PrDecodeNormalLayout : Prop :=
  ∀ (s : State) (bs : Bits) (len : BitVec 10) (m : BitVec 8) (l : Nat), s.latched bs len →
    (m, l) ∈ [(1#8, 1), (3#8, 2), (7#8, 3)] → len.toNat = 16 + 272 * l →
    uintAt bs 0 8 = 1 → m.toNat = uintAt bs 8 8 →
    ∃ t, exec (.prDecode 0) s = .next t ∧ t.prStatus = 0x01#8 ∧ t.prErrA = none ∧ t.prErrB = none ∧
      t.prMask = some m ∧ t.prLevel = some (BitVec.ofNat 2 l) ∧
      (∀ i : Fin 3, i.val < l → ∃ (h : Hash) (d : BitVec 16), t.prHash[i] = some h ∧ t.prDepth[i] = some d ∧
        (∀ (j : Fin 32) (k : Nat), k < 8 → h[j].getLsbD (7 - k) = bs.getLsbD (16 + 256 * i.val + 8 * j.val + k)) ∧
        ∀ k < 16, d.getLsbD (15 - k) = bs.getLsbD (16 + 256 * l + 16 * i.val + k)) ∧
      (∀ i : Fin 3, l ≤ i.val → t.prHash[i] = none ∧ t.prDepth[i] = none) ∧
      t = { s with prStatus := t.prStatus, prErrA := t.prErrA, prErrB := t.prErrB, prMask := t.prMask,
                   prLevel := t.prLevel, prHash := t.prHash, prDepth := t.prDepth }

/-- A 280-bit cell of type 1 with no references always decodes with mask 1, whatever its bits 8 to 15 are: the hash is
bits 8 to 263 and the depth bits 264 to 279; nothing outside the PR unit changes (R82, R175, R184). -/
def Obligations.PrDecodeLegacyLayout : Prop :=
  ∀ (s : State) (bs : Bits), s.latched bs 280#10 → uintAt bs 0 8 = 1 →
    ∃ (t : State) (h : Hash) (d : BitVec 16), exec (.prDecode 0) s = .next t ∧
      (∀ (j : Fin 32) (k : Nat), k < 8 → h[j].getLsbD (7 - k) = bs.getLsbD (8 + 8 * j.val + k)) ∧
      (∀ k < 16, d.getLsbD (15 - k) = bs.getLsbD (264 + k)) ∧
      t = { s with prStatus := 0x01#8, prErrA := none, prErrB := none, prMask := some 1#8, prLevel := some 1#2,
                   prHash := #v[some h, none, none], prDepth := #v[some d, none, none] }

/-- PR.DECODE succeeds exactly on a type-1 cell with no references that is 280 bits long, or whose mask is 1, 3 or 7 and
whose length is 288, 560 or 832 respectively; on success `PR_MASK` and `PR_LEVEL` are 1 and 1, 3 and 2, or 7 and 3, at
another length than 280 those of the cell's mask (R83, R182). -/
def Obligations.PrDecodeSucceedsExactly : Prop :=
  ∀ (refs : BitVec 3) (s t : State) (bs : Bits) (len : BitVec 10), s.latched bs len →
    exec (.prDecode refs) s = .next t →
    (prCode t.prStatus = 0#3 ↔
      8 ≤ len.toNat ∧ uintAt bs 0 8 = 1 ∧ refs = 0#3 ∧
        (len.toNat = 280 ∨ len.toNat = 288 ∧ uintAt bs 8 8 = 1 ∨ len.toNat = 560 ∧ uintAt bs 8 8 = 3 ∨
          len.toNat = 832 ∧ uintAt bs 8 8 = 7)) ∧
    (prCode t.prStatus = 0#3 →
      (len.toNat = 280 ∨ len.toNat = 288 → t.prMask = some 1#8 ∧ t.prLevel = some 1#2) ∧
      (len.toNat = 560 → t.prMask = some 3#8 ∧ t.prLevel = some 2#2) ∧
      (len.toNat = 832 → t.prMask = some 7#8 ∧ t.prLevel = some 3#2))

/-- After every PR.DECODE that completes, from any state: DONE is 1, and the PR registers agree with each other; above
all a failure leaves its context and no result register, and a success leaves its entries and no context (R31 to R36,
R180). -/
def Obligations.PrDecodeLeavesNoPartialResult : Prop :=
  ∀ (refs : BitVec 3) (s t : State), exec (.prDecode refs) s = .next t →
    prDone t.prStatus = true ∧ t.prInv = true ∧
    (prCode t.prStatus ≠ 0#3 → t.prErrA.isSome = true ∧ t.prErrB.isSome = true ∧ t.prMask = none ∧ t.prLevel = none ∧
      ∀ i : Fin 3, t.prHash[i] = none ∧ t.prDepth[i] = none)

/-- PR.DECODE leaves the BR unit, the LM result, the CRC unit and the host's side as they were, and every PR.DECODE over
the same latched BitString with the same REFS, in whatever state, gives the same result (R186). -/
def Obligations.PrDecodeIsRepeatable : Prop :=
  ∀ (refs : BitVec 3) (s t : State), exec (.prDecode refs) s = .next t →
    t = { s with prStatus := t.prStatus, prErrA := t.prErrA, prErrB := t.prErrB, prMask := t.prMask,
                 prLevel := t.prLevel, prHash := t.prHash, prDepth := t.prDepth } ∧
    ∀ u : State, rdValid u.rdStatus = true → u.bs = s.bs → u.bsLen = s.bsLen →
      exec (.prDecode refs) u = .next
        { u with prStatus := t.prStatus, prErrA := t.prErrA, prErrB := t.prErrB, prMask := t.prMask,
                 prLevel := t.prLevel, prHash := t.prHash, prDepth := t.prDepth }

/-- On success the decoder has read every bit: its own cursor ends at the length, with no bit left over (R187). -/
def Obligations.PrDecodeReadsEveryBit : Prop :=
  ∀ (bs : Bits) (len refs : Nat) (cell : Cell), decodeCell bs len refs = .ok cell →
    cell.endCur = len ∧ cell.hashes.length = cell.level ∧ cell.depths.length = cell.level

/-- Inside PR.DECODE OutOfBounds arises at three places only: the type read below 8 bits, the mask read at 8 to 15 bits,
and a hash read for a mask with fewer set bits than its level at the length its size check admits (R202). -/
def Obligations.PrDecodeOutOfBoundsPlaces : Prop :=
  ∀ (refs : BitVec 3) (s t : State) (bs : Bits) (len : BitVec 10), s.latched bs len →
    exec (.prDecode refs) s = .next t → prCode t.prStatus = 1#3 →
    (len.toNat < 8 ∧ t.prErrA = some 8#16) ∨
    (8 ≤ len.toNat ∧ len.toNat ≤ 15 ∧ t.prErrA = some 8#16) ∨
    (len.toNat ≠ 280 ∧ t.prErrA = some 256#16 ∧
      ∃ m : BitVec 8, m.toNat = uintAt bs 8 8 ∧ hashCount m < level m ∧ level m ≤ 3 ∧
        len.toNat = 16 + 272 * hashCount m)

/-! ## The whole machine -/

/-- The invariant holds at reset (it includes the model's form of `BS`, log 11, DESIGN CHOICE). -/
def Obligations.InvariantHoldsAtReset : Prop := State.reset.inv = true

/-- Every step keeps the invariant: the registers agree with each other as R21 to R36 say, the reserved bits of both
status registers stay 0, no code occurs that is never written, and the cursor is within the BitString; and, which is the
model's choice and no rule of the spec, the places of `BS` at and above `BS_LEN` stay 0 (log 11, DESIGN CHOICE). -/
def Obligations.StepKeepsInvariant : Prop := ∀ s t : State, s.inv = true → step s = .next t → t.inv = true

/-- No step faults in a state that meets the invariant: the block has no trap, its errors are reported in registers and
the command completes (R206; the model's one fault is for states no run reaches, log 9). -/
def Obligations.NoStepFaults : Prop := ∀ (s : State) (f : Fault), s.inv = true → step s ≠ .fault f

/-- In a state that meets the invariant, a command completes exactly when R205 names no reason to refuse it; that for
RD.INIT only a move of a wire below `LEN` is one is the model's reading (log 5, DEDUCED). -/
def Obligations.CommandsCompleteExactly : Prop :=
  ∀ (i : Instr) (s : State), s.inv = true →
    ((∃ t, exec i s = .next t) ↔
      match i with
      | .rdInit len => ∀ j < len.toNat, s.port.moving.getLsbD j = false
      | .rdUint wid => rdValid s.rdStatus = true ∧ rdFault s.rdStatus = false ∧ 1 ≤ wid.toNat ∧ wid.toNat ≤ 32
      | .rdBuf nby => rdValid s.rdStatus = true ∧ rdFault s.rdStatus = false ∧ 1 ≤ nby.toNat
      | .rdRem => rdValid s.rdStatus = true ∧ rdFault s.rdStatus = false
      | .rdLen => rdValid s.rdStatus = true
      | .lmLevel _ => True
      | .lmApply _ _ => True
      | .lmHashcount _ => True
      | .crcInit => True
      | .crcUpdate _ => s.crcValid = true
      | .crcFinal => s.crcValid = true
      | .prDecode refs => rdValid s.rdStatus = true ∧ refs.toNat ≤ 4)
end

