-- ==== Sys2Proof/Laws/PerInstr.lean ====
section
/-! SUPPORT. The per-instruction family WordMatchesRow: the word of a command satisfies the match and mask of its row of
the command map (R76), whatever its operands are. -/
namespace Sys2Proof.Laws

/-- The word of the command, under the mask of its row, is the match of its row (R76). -/
def WordMatchesRow.Statement (i : Instr) : Prop := encode i &&& (rowOf i).mask = (rowOf i).pat

/-- Two words with the same 32 bits are equal, said so that the bits can be gone through one by one. -/
theorem word_ext {a b : Word} (h : ∀ k, k < 32 → a.getLsbD k = b.getLsbD k) : a = b :=
  BitVec.eq_of_getLsbD_eq h

theorem WordMatchesRow.rdInit (len : BitVec 10) : WordMatchesRow.Statement (.rdInit len) :=
  word_ext fun k hk => by
    simp only [encode, commandWord, rowOf, rowRdInit, BitVec.getLsbD_and, BitVec.getLsbD_append, BitVec.getLsbD_setWidth]
    interval_cases k <;> simp [BitVec.getLsbD_of_ge]

theorem WordMatchesRow.rdUint (wid : BitVec 6) : WordMatchesRow.Statement (.rdUint wid) :=
  word_ext fun k hk => by
    simp only [encode, commandWord, rowOf, rowRdUint, BitVec.getLsbD_and, BitVec.getLsbD_append, BitVec.getLsbD_setWidth]
    interval_cases k <;> simp [BitVec.getLsbD_of_ge]

theorem WordMatchesRow.rdBuf (nby : BitVec 7) : WordMatchesRow.Statement (.rdBuf nby) :=
  word_ext fun k hk => by
    simp only [encode, commandWord, rowOf, rowRdBuf, BitVec.getLsbD_and, BitVec.getLsbD_append, BitVec.getLsbD_setWidth]
    interval_cases k <;> simp [BitVec.getLsbD_of_ge]

theorem WordMatchesRow.rdRem : WordMatchesRow.Statement .rdRem := by
  unfold WordMatchesRow.Statement; decide

theorem WordMatchesRow.rdLen : WordMatchesRow.Statement .rdLen := by
  unfold WordMatchesRow.Statement; decide

theorem WordMatchesRow.lmLevel (val : BitVec 8) : WordMatchesRow.Statement (.lmLevel val) :=
  word_ext fun k hk => by
    simp only [encode, commandWord, rowOf, rowLmLevel, BitVec.getLsbD_and, BitVec.getLsbD_append, BitVec.getLsbD_setWidth]
    interval_cases k <;> simp [BitVec.getLsbD_of_ge]

theorem WordMatchesRow.lmApply (val : BitVec 8) (apn : BitVec 3) : WordMatchesRow.Statement (.lmApply val apn) :=
  word_ext fun k hk => by
    simp only [encode, commandWord, rowOf, rowLmApply, BitVec.getLsbD_and, BitVec.getLsbD_append, BitVec.getLsbD_setWidth]
    interval_cases k <;> simp [BitVec.getLsbD_of_ge]

theorem WordMatchesRow.lmHashcount (val : BitVec 8) : WordMatchesRow.Statement (.lmHashcount val) :=
  word_ext fun k hk => by
    simp only [encode, commandWord, rowOf, rowLmHashcount, BitVec.getLsbD_and, BitVec.getLsbD_append, BitVec.getLsbD_setWidth]
    interval_cases k <;> simp [BitVec.getLsbD_of_ge]

theorem WordMatchesRow.crcInit : WordMatchesRow.Statement .crcInit := by
  unfold WordMatchesRow.Statement; decide

theorem WordMatchesRow.crcUpdate (byte : BitVec 8) : WordMatchesRow.Statement (.crcUpdate byte) :=
  word_ext fun k hk => by
    simp only [encode, commandWord, rowOf, rowCrcUpdate, BitVec.getLsbD_and, BitVec.getLsbD_append, BitVec.getLsbD_setWidth]
    interval_cases k <;> simp [BitVec.getLsbD_of_ge]

theorem WordMatchesRow.crcFinal : WordMatchesRow.Statement .crcFinal := by
  unfold WordMatchesRow.Statement; decide

theorem WordMatchesRow.prDecode (refs : BitVec 3) : WordMatchesRow.Statement (.prDecode refs) :=
  word_ext fun k hk => by
    simp only [encode, commandWord, rowOf, rowPrDecode, BitVec.getLsbD_and, BitVec.getLsbD_append, BitVec.getLsbD_setWidth]
    interval_cases k <;> simp [BitVec.getLsbD_of_ge]

end Sys2Proof.Laws
end

