-- ==== Sys2Proof/Laws/Decode.lean ====
section
/-! SUPPORT. The command map: no word is of two rows, so decoding is decided by whichever row a word matches, and a word
is reserved exactly when it matches none (R76, R77). -/
namespace Sys2Proof

/-- Two rows clash on some bit both fix, or are the same row. -/
def Row.apart (r q : Row) : Prop := r.pat &&& q.mask ≠ q.pat &&& r.mask

/-- No word matches two rows that are apart. -/
theorem Row.apart_hits {r q : Row} (h : r.apart q) {c : Word} (hr : r.hits c = true) : q.hits c = false := by
  by_contra hq
  simp only [Bool.not_eq_false, Row.hits, beq_iff_eq] at hr hq
  apply h
  rw [← hr, ← hq, BitVec.and_assoc, BitVec.and_assoc, BitVec.and_comm r.mask]

/-- The twelve rows of the map are pairwise apart (R76). -/
theorem commandMap_apart : commandMap.Pairwise Row.apart := by
  unfold commandMap Row.apart; decide

/-- A word of a row decodes to that row's command. -/
theorem decode_of_hits {r : Row} (hr : r ∈ commandMap) {c : Word} (hc : r.hits c = true) : decode c = .ok (r.read c) := by
  have key : ∀ l : List Row, l.Pairwise Row.apart → r ∈ l → l.find? (fun q => q.hits c) = some r := by
    intro l
    induction l with
    | nil => intro _ h; cases h
    | cons q l ih =>
      intro hp hm
      rcases List.mem_cons.mp hm with rfl | hm
      · simp [hc]
      · have hq : q.hits c = false := by
          by_contra h
          rw [Row.apart_hits ((List.pairwise_cons.mp hp).1 r hm) (by simpa using h)] at hc
          cases hc
        simpa [hq] using ih (List.pairwise_cons.mp hp).2 hm
  simp [decode, key commandMap commandMap_apart hr]

/-- A word that decodes is of some row, and decodes to that row's command. -/
theorem row_of_decode {c : Word} {i : Instr} (h : decode c = .ok i) :
    ∃ r ∈ commandMap, r.hits c = true ∧ i = r.read c := by
  unfold decode at h
  split at h
  · rename_i r hf
    exact ⟨r, List.mem_of_find?_eq_some hf, by simpa using List.find?_some hf, by cases h; rfl⟩
  · cases h

/-- A word is reserved exactly when it is of no row (R77). -/
theorem decode_error_iff {c : Word} {why : Reserved} :
    decode c = .error why ↔ (∀ r ∈ commandMap, r.hits c = false) ∧ why = reservedWhy c := by
  unfold decode
  split
  · rename_i r hf
    have hm := List.mem_of_find?_eq_some hf
    have hh : r.hits c = true := by simpa using List.find?_some hf
    simp only [reduceCtorEq, false_iff, not_and]
    intro hall
    rw [hall r hm] at hh
    cases hh
  · rename_i hf
    have hall : ∀ r ∈ commandMap, r.hits c = false := by simpa using hf
    constructor
    · intro h; cases h; exact ⟨hall, rfl⟩
    · rintro ⟨_, rfl⟩; rfl

end Sys2Proof
end

