-- ==== Sys2Proof/Laws/Flags.lean ====
section
/-! SUPPORT. The values of the two status bytes: what each outcome writes, and what the fields of it read as (R24, R31,
R200). -/
namespace Sys2Proof.Machine

@[simp] theorem rdStatusOf_fresh : rdStatusOf true false 0#3 = 0x01#8 := by decide

@[simp] theorem prStatusOf_success : prStatusOf 0#3 false = 0x01#8 := by decide

@[simp] theorem prStatusOf_outOfBounds : prStatusOf (codeOf .outOfBounds) false = 0x03#8 := by decide

@[simp] theorem prStatusOf_invalidCellType : prStatusOf (codeOf .invalidCellType) false = 0x05#8 := by decide

@[simp] theorem prStatusOf_references : prStatusOf (codeOf .invalidStructure) false = 0x07#8 := by decide

@[simp] theorem prStatusOf_length : prStatusOf (codeOf .invalidStructure) true = 0x17#8 := by decide

@[simp] theorem prStatusOf_invalidLevel : prStatusOf (codeOf .invalidLevel) false = 0x09#8 := by decide

/-- A bounds failure clears bits 4 to 1 of the status and writes 011 there, FAULT and CODE 1; the rest stays (R106). -/
theorem rdStatusFaulted_eq : ∀ st : BitVec 8, rdStatusFaulted st = (st &&& 0xE1#8) ||| 0x06#8 := by decide

@[simp] theorem rdFault_rdStatusFaulted : ∀ st : BitVec 8, rdFault (rdStatusFaulted st) = true := by decide

@[simp] theorem rdValid_rdStatusFaulted : ∀ st : BitVec 8, rdValid (rdStatusFaulted st) = rdValid st := by decide

@[simp] theorem rdCode_rdStatusFaulted : ∀ st : BitVec 8, rdCode (rdStatusFaulted st) = 1#3 := by decide

/-- A failed decode, in the terms the statements use (R180). -/
theorem failDecode_eq (s : State) (kind : ErrorKind) (sub : Bool) (a b : Nat) :
    s.failDecode kind sub a b =
      s.afterFailedDecode (prStatusOf (codeOf kind) sub) (BitVec.ofNat 16 a) (BitVec.ofNat 16 b) := rfl

end Sys2Proof.Machine
end

