-- ==== Sys2Proof/Laws/State.lean ====
section
/-! SUPPORT. One lemma per field per update: what each named operation of Machine/Ops.lean leaves in each field of State.
Each is true by the definition of the update; together they keep later proofs from unfolding one. -/
namespace Sys2Proof.Machine

section SetRes
variable (s : State) (v : Option Word)
@[simp] theorem State.setRes_bs : (s.setRes v).bs = s.bs := rfl
@[simp] theorem State.setRes_bsLen : (s.setRes v).bsLen = s.bsLen := rfl
@[simp] theorem State.setRes_cur : (s.setRes v).cur = s.cur := rfl
@[simp] theorem State.setRes_rdStatus : (s.setRes v).rdStatus = s.rdStatus := rfl
@[simp] theorem State.setRes_rdErrA : (s.setRes v).rdErrA = s.rdErrA := rfl
@[simp] theorem State.setRes_rdErrB : (s.setRes v).rdErrB = s.rdErrB := rfl
@[simp] theorem State.setRes_res : (s.setRes v).res = v := rfl
@[simp] theorem State.setRes_obuf : (s.setRes v).obuf = s.obuf := rfl
@[simp] theorem State.setRes_obufLen : (s.setRes v).obufLen = s.obufLen := rfl
@[simp] theorem State.setRes_crcReg : (s.setRes v).crcReg = s.crcReg := rfl
@[simp] theorem State.setRes_crcValid : (s.setRes v).crcValid = s.crcValid := rfl
@[simp] theorem State.setRes_crcOut : (s.setRes v).crcOut = s.crcOut := rfl
@[simp] theorem State.setRes_prStatus : (s.setRes v).prStatus = s.prStatus := rfl
@[simp] theorem State.setRes_prErrA : (s.setRes v).prErrA = s.prErrA := rfl
@[simp] theorem State.setRes_prErrB : (s.setRes v).prErrB = s.prErrB := rfl
@[simp] theorem State.setRes_prMask : (s.setRes v).prMask = s.prMask := rfl
@[simp] theorem State.setRes_prLevel : (s.setRes v).prLevel = s.prLevel := rfl
@[simp] theorem State.setRes_prHash : (s.setRes v).prHash = s.prHash := rfl
@[simp] theorem State.setRes_prDepth : (s.setRes v).prDepth = s.prDepth := rfl
@[simp] theorem State.setRes_pending : (s.setRes v).pending = s.pending := rfl
@[simp] theorem State.setRes_port : (s.setRes v).port = s.port := rfl
@[simp] theorem State.setRes_readOut : (s.setRes v).readOut = s.readOut := rfl
end SetRes

section SetObuf
variable (s : State) (b : List Byte)
@[simp] theorem State.setObuf_bs : (s.setObuf b).bs = s.bs := rfl
@[simp] theorem State.setObuf_bsLen : (s.setObuf b).bsLen = s.bsLen := rfl
@[simp] theorem State.setObuf_cur : (s.setObuf b).cur = s.cur := rfl
@[simp] theorem State.setObuf_rdStatus : (s.setObuf b).rdStatus = s.rdStatus := rfl
@[simp] theorem State.setObuf_rdErrA : (s.setObuf b).rdErrA = s.rdErrA := rfl
@[simp] theorem State.setObuf_rdErrB : (s.setObuf b).rdErrB = s.rdErrB := rfl
@[simp] theorem State.setObuf_res : (s.setObuf b).res = s.res := rfl
@[simp] theorem State.setObuf_obuf : (s.setObuf b).obuf = some b := rfl
@[simp] theorem State.setObuf_obufLen : (s.setObuf b).obufLen = some (BitVec.ofNat 7 b.length) := rfl
@[simp] theorem State.setObuf_crcReg : (s.setObuf b).crcReg = s.crcReg := rfl
@[simp] theorem State.setObuf_crcValid : (s.setObuf b).crcValid = s.crcValid := rfl
@[simp] theorem State.setObuf_crcOut : (s.setObuf b).crcOut = s.crcOut := rfl
@[simp] theorem State.setObuf_prStatus : (s.setObuf b).prStatus = s.prStatus := rfl
@[simp] theorem State.setObuf_prErrA : (s.setObuf b).prErrA = s.prErrA := rfl
@[simp] theorem State.setObuf_prErrB : (s.setObuf b).prErrB = s.prErrB := rfl
@[simp] theorem State.setObuf_prMask : (s.setObuf b).prMask = s.prMask := rfl
@[simp] theorem State.setObuf_prLevel : (s.setObuf b).prLevel = s.prLevel := rfl
@[simp] theorem State.setObuf_prHash : (s.setObuf b).prHash = s.prHash := rfl
@[simp] theorem State.setObuf_prDepth : (s.setObuf b).prDepth = s.prDepth := rfl
@[simp] theorem State.setObuf_pending : (s.setObuf b).pending = s.pending := rfl
@[simp] theorem State.setObuf_port : (s.setObuf b).port = s.port := rfl
@[simp] theorem State.setObuf_readOut : (s.setObuf b).readOut = s.readOut := rfl
end SetObuf

section ClearObuf
variable (s : State)
@[simp] theorem State.clearObuf_bs : (s.clearObuf).bs = s.bs := rfl
@[simp] theorem State.clearObuf_bsLen : (s.clearObuf).bsLen = s.bsLen := rfl
@[simp] theorem State.clearObuf_cur : (s.clearObuf).cur = s.cur := rfl
@[simp] theorem State.clearObuf_rdStatus : (s.clearObuf).rdStatus = s.rdStatus := rfl
@[simp] theorem State.clearObuf_rdErrA : (s.clearObuf).rdErrA = s.rdErrA := rfl
@[simp] theorem State.clearObuf_rdErrB : (s.clearObuf).rdErrB = s.rdErrB := rfl
@[simp] theorem State.clearObuf_res : (s.clearObuf).res = s.res := rfl
@[simp] theorem State.clearObuf_obuf : (s.clearObuf).obuf = none := rfl
@[simp] theorem State.clearObuf_obufLen : (s.clearObuf).obufLen = none := rfl
@[simp] theorem State.clearObuf_crcReg : (s.clearObuf).crcReg = s.crcReg := rfl
@[simp] theorem State.clearObuf_crcValid : (s.clearObuf).crcValid = s.crcValid := rfl
@[simp] theorem State.clearObuf_crcOut : (s.clearObuf).crcOut = s.crcOut := rfl
@[simp] theorem State.clearObuf_prStatus : (s.clearObuf).prStatus = s.prStatus := rfl
@[simp] theorem State.clearObuf_prErrA : (s.clearObuf).prErrA = s.prErrA := rfl
@[simp] theorem State.clearObuf_prErrB : (s.clearObuf).prErrB = s.prErrB := rfl
@[simp] theorem State.clearObuf_prMask : (s.clearObuf).prMask = s.prMask := rfl
@[simp] theorem State.clearObuf_prLevel : (s.clearObuf).prLevel = s.prLevel := rfl
@[simp] theorem State.clearObuf_prHash : (s.clearObuf).prHash = s.prHash := rfl
@[simp] theorem State.clearObuf_prDepth : (s.clearObuf).prDepth = s.prDepth := rfl
@[simp] theorem State.clearObuf_pending : (s.clearObuf).pending = s.pending := rfl
@[simp] theorem State.clearObuf_port : (s.clearObuf).port = s.port := rfl
@[simp] theorem State.clearObuf_readOut : (s.clearObuf).readOut = s.readOut := rfl
end ClearObuf

section Advance
variable (s : State) (w : Nat)
@[simp] theorem State.advance_bs : (s.advance w).bs = s.bs := rfl
@[simp] theorem State.advance_bsLen : (s.advance w).bsLen = s.bsLen := rfl
@[simp] theorem State.advance_cur : (s.advance w).cur = s.cur + BitVec.ofNat 10 w := rfl
@[simp] theorem State.advance_rdStatus : (s.advance w).rdStatus = s.rdStatus := rfl
@[simp] theorem State.advance_rdErrA : (s.advance w).rdErrA = s.rdErrA := rfl
@[simp] theorem State.advance_rdErrB : (s.advance w).rdErrB = s.rdErrB := rfl
@[simp] theorem State.advance_res : (s.advance w).res = s.res := rfl
@[simp] theorem State.advance_obuf : (s.advance w).obuf = s.obuf := rfl
@[simp] theorem State.advance_obufLen : (s.advance w).obufLen = s.obufLen := rfl
@[simp] theorem State.advance_crcReg : (s.advance w).crcReg = s.crcReg := rfl
@[simp] theorem State.advance_crcValid : (s.advance w).crcValid = s.crcValid := rfl
@[simp] theorem State.advance_crcOut : (s.advance w).crcOut = s.crcOut := rfl
@[simp] theorem State.advance_prStatus : (s.advance w).prStatus = s.prStatus := rfl
@[simp] theorem State.advance_prErrA : (s.advance w).prErrA = s.prErrA := rfl
@[simp] theorem State.advance_prErrB : (s.advance w).prErrB = s.prErrB := rfl
@[simp] theorem State.advance_prMask : (s.advance w).prMask = s.prMask := rfl
@[simp] theorem State.advance_prLevel : (s.advance w).prLevel = s.prLevel := rfl
@[simp] theorem State.advance_prHash : (s.advance w).prHash = s.prHash := rfl
@[simp] theorem State.advance_prDepth : (s.advance w).prDepth = s.prDepth := rfl
@[simp] theorem State.advance_pending : (s.advance w).pending = s.pending := rfl
@[simp] theorem State.advance_port : (s.advance w).port = s.port := rfl
@[simp] theorem State.advance_readOut : (s.advance w).readOut = s.readOut := rfl
end Advance

section SetCrcReg
variable (s : State) (r : Word)
@[simp] theorem State.setCrcReg_bs : (s.setCrcReg r).bs = s.bs := rfl
@[simp] theorem State.setCrcReg_bsLen : (s.setCrcReg r).bsLen = s.bsLen := rfl
@[simp] theorem State.setCrcReg_cur : (s.setCrcReg r).cur = s.cur := rfl
@[simp] theorem State.setCrcReg_rdStatus : (s.setCrcReg r).rdStatus = s.rdStatus := rfl
@[simp] theorem State.setCrcReg_rdErrA : (s.setCrcReg r).rdErrA = s.rdErrA := rfl
@[simp] theorem State.setCrcReg_rdErrB : (s.setCrcReg r).rdErrB = s.rdErrB := rfl
@[simp] theorem State.setCrcReg_res : (s.setCrcReg r).res = s.res := rfl
@[simp] theorem State.setCrcReg_obuf : (s.setCrcReg r).obuf = s.obuf := rfl
@[simp] theorem State.setCrcReg_obufLen : (s.setCrcReg r).obufLen = s.obufLen := rfl
@[simp] theorem State.setCrcReg_crcReg : (s.setCrcReg r).crcReg = some r := rfl
@[simp] theorem State.setCrcReg_crcValid : (s.setCrcReg r).crcValid = s.crcValid := rfl
@[simp] theorem State.setCrcReg_crcOut : (s.setCrcReg r).crcOut = s.crcOut := rfl
@[simp] theorem State.setCrcReg_prStatus : (s.setCrcReg r).prStatus = s.prStatus := rfl
@[simp] theorem State.setCrcReg_prErrA : (s.setCrcReg r).prErrA = s.prErrA := rfl
@[simp] theorem State.setCrcReg_prErrB : (s.setCrcReg r).prErrB = s.prErrB := rfl
@[simp] theorem State.setCrcReg_prMask : (s.setCrcReg r).prMask = s.prMask := rfl
@[simp] theorem State.setCrcReg_prLevel : (s.setCrcReg r).prLevel = s.prLevel := rfl
@[simp] theorem State.setCrcReg_prHash : (s.setCrcReg r).prHash = s.prHash := rfl
@[simp] theorem State.setCrcReg_prDepth : (s.setCrcReg r).prDepth = s.prDepth := rfl
@[simp] theorem State.setCrcReg_pending : (s.setCrcReg r).pending = s.pending := rfl
@[simp] theorem State.setCrcReg_port : (s.setCrcReg r).port = s.port := rfl
@[simp] theorem State.setCrcReg_readOut : (s.setCrcReg r).readOut = s.readOut := rfl
end SetCrcReg

section StartCrc
variable (s : State) (r : Word)
@[simp] theorem State.startCrc_bs : (s.startCrc r).bs = s.bs := rfl
@[simp] theorem State.startCrc_bsLen : (s.startCrc r).bsLen = s.bsLen := rfl
@[simp] theorem State.startCrc_cur : (s.startCrc r).cur = s.cur := rfl
@[simp] theorem State.startCrc_rdStatus : (s.startCrc r).rdStatus = s.rdStatus := rfl
@[simp] theorem State.startCrc_rdErrA : (s.startCrc r).rdErrA = s.rdErrA := rfl
@[simp] theorem State.startCrc_rdErrB : (s.startCrc r).rdErrB = s.rdErrB := rfl
@[simp] theorem State.startCrc_res : (s.startCrc r).res = s.res := rfl
@[simp] theorem State.startCrc_obuf : (s.startCrc r).obuf = s.obuf := rfl
@[simp] theorem State.startCrc_obufLen : (s.startCrc r).obufLen = s.obufLen := rfl
@[simp] theorem State.startCrc_crcReg : (s.startCrc r).crcReg = some r := rfl
@[simp] theorem State.startCrc_crcValid : (s.startCrc r).crcValid = true := rfl
@[simp] theorem State.startCrc_crcOut : (s.startCrc r).crcOut = s.crcOut := rfl
@[simp] theorem State.startCrc_prStatus : (s.startCrc r).prStatus = s.prStatus := rfl
@[simp] theorem State.startCrc_prErrA : (s.startCrc r).prErrA = s.prErrA := rfl
@[simp] theorem State.startCrc_prErrB : (s.startCrc r).prErrB = s.prErrB := rfl
@[simp] theorem State.startCrc_prMask : (s.startCrc r).prMask = s.prMask := rfl
@[simp] theorem State.startCrc_prLevel : (s.startCrc r).prLevel = s.prLevel := rfl
@[simp] theorem State.startCrc_prHash : (s.startCrc r).prHash = s.prHash := rfl
@[simp] theorem State.startCrc_prDepth : (s.startCrc r).prDepth = s.prDepth := rfl
@[simp] theorem State.startCrc_pending : (s.startCrc r).pending = s.pending := rfl
@[simp] theorem State.startCrc_port : (s.startCrc r).port = s.port := rfl
@[simp] theorem State.startCrc_readOut : (s.startCrc r).readOut = s.readOut := rfl
end StartCrc

section SetCrcOut
variable (s : State) (b : Vector Byte 4)
@[simp] theorem State.setCrcOut_bs : (s.setCrcOut b).bs = s.bs := rfl
@[simp] theorem State.setCrcOut_bsLen : (s.setCrcOut b).bsLen = s.bsLen := rfl
@[simp] theorem State.setCrcOut_cur : (s.setCrcOut b).cur = s.cur := rfl
@[simp] theorem State.setCrcOut_rdStatus : (s.setCrcOut b).rdStatus = s.rdStatus := rfl
@[simp] theorem State.setCrcOut_rdErrA : (s.setCrcOut b).rdErrA = s.rdErrA := rfl
@[simp] theorem State.setCrcOut_rdErrB : (s.setCrcOut b).rdErrB = s.rdErrB := rfl
@[simp] theorem State.setCrcOut_res : (s.setCrcOut b).res = s.res := rfl
@[simp] theorem State.setCrcOut_obuf : (s.setCrcOut b).obuf = s.obuf := rfl
@[simp] theorem State.setCrcOut_obufLen : (s.setCrcOut b).obufLen = s.obufLen := rfl
@[simp] theorem State.setCrcOut_crcReg : (s.setCrcOut b).crcReg = s.crcReg := rfl
@[simp] theorem State.setCrcOut_crcValid : (s.setCrcOut b).crcValid = s.crcValid := rfl
@[simp] theorem State.setCrcOut_crcOut : (s.setCrcOut b).crcOut = some b := rfl
@[simp] theorem State.setCrcOut_prStatus : (s.setCrcOut b).prStatus = s.prStatus := rfl
@[simp] theorem State.setCrcOut_prErrA : (s.setCrcOut b).prErrA = s.prErrA := rfl
@[simp] theorem State.setCrcOut_prErrB : (s.setCrcOut b).prErrB = s.prErrB := rfl
@[simp] theorem State.setCrcOut_prMask : (s.setCrcOut b).prMask = s.prMask := rfl
@[simp] theorem State.setCrcOut_prLevel : (s.setCrcOut b).prLevel = s.prLevel := rfl
@[simp] theorem State.setCrcOut_prHash : (s.setCrcOut b).prHash = s.prHash := rfl
@[simp] theorem State.setCrcOut_prDepth : (s.setCrcOut b).prDepth = s.prDepth := rfl
@[simp] theorem State.setCrcOut_pending : (s.setCrcOut b).pending = s.pending := rfl
@[simp] theorem State.setCrcOut_port : (s.setCrcOut b).port = s.port := rfl
@[simp] theorem State.setCrcOut_readOut : (s.setCrcOut b).readOut = s.readOut := rfl
end SetCrcOut

section Latch
variable (s : State) (len : BitVec 10)
@[simp] theorem State.latch_bs : (s.latch len).bs = some (firstBits len.toNat s.port.level) := rfl
@[simp] theorem State.latch_bsLen : (s.latch len).bsLen = some len := rfl
@[simp] theorem State.latch_cur : (s.latch len).cur = 0#10 := rfl
@[simp] theorem State.latch_rdStatus : (s.latch len).rdStatus = rdStatusOf true false 0#3 := rfl
@[simp] theorem State.latch_rdErrA : (s.latch len).rdErrA = none := rfl
@[simp] theorem State.latch_rdErrB : (s.latch len).rdErrB = none := rfl
@[simp] theorem State.latch_res : (s.latch len).res = s.res := rfl
@[simp] theorem State.latch_obuf : (s.latch len).obuf = s.obuf := rfl
@[simp] theorem State.latch_obufLen : (s.latch len).obufLen = s.obufLen := rfl
@[simp] theorem State.latch_crcReg : (s.latch len).crcReg = s.crcReg := rfl
@[simp] theorem State.latch_crcValid : (s.latch len).crcValid = s.crcValid := rfl
@[simp] theorem State.latch_crcOut : (s.latch len).crcOut = s.crcOut := rfl
@[simp] theorem State.latch_prStatus : (s.latch len).prStatus = s.prStatus := rfl
@[simp] theorem State.latch_prErrA : (s.latch len).prErrA = s.prErrA := rfl
@[simp] theorem State.latch_prErrB : (s.latch len).prErrB = s.prErrB := rfl
@[simp] theorem State.latch_prMask : (s.latch len).prMask = s.prMask := rfl
@[simp] theorem State.latch_prLevel : (s.latch len).prLevel = s.prLevel := rfl
@[simp] theorem State.latch_prHash : (s.latch len).prHash = s.prHash := rfl
@[simp] theorem State.latch_prDepth : (s.latch len).prDepth = s.prDepth := rfl
@[simp] theorem State.latch_pending : (s.latch len).pending = s.pending := rfl
@[simp] theorem State.latch_port : (s.latch len).port = s.port := rfl
@[simp] theorem State.latch_readOut : (s.latch len).readOut = s.readOut := rfl
end Latch

section ReportOutOfBounds
variable (s : State) (w r : Nat)
@[simp] theorem State.reportOutOfBounds_bs : (s.reportOutOfBounds w r).bs = s.bs := rfl
@[simp] theorem State.reportOutOfBounds_bsLen : (s.reportOutOfBounds w r).bsLen = s.bsLen := rfl
@[simp] theorem State.reportOutOfBounds_cur : (s.reportOutOfBounds w r).cur = s.cur := rfl
@[simp] theorem State.reportOutOfBounds_rdStatus : (s.reportOutOfBounds w r).rdStatus = rdStatusFaulted s.rdStatus := rfl
@[simp] theorem State.reportOutOfBounds_rdErrA : (s.reportOutOfBounds w r).rdErrA = some (context w) := rfl
@[simp] theorem State.reportOutOfBounds_rdErrB : (s.reportOutOfBounds w r).rdErrB = some (context r) := rfl
@[simp] theorem State.reportOutOfBounds_res : (s.reportOutOfBounds w r).res = s.res := rfl
@[simp] theorem State.reportOutOfBounds_obuf : (s.reportOutOfBounds w r).obuf = s.obuf := rfl
@[simp] theorem State.reportOutOfBounds_obufLen : (s.reportOutOfBounds w r).obufLen = s.obufLen := rfl
@[simp] theorem State.reportOutOfBounds_crcReg : (s.reportOutOfBounds w r).crcReg = s.crcReg := rfl
@[simp] theorem State.reportOutOfBounds_crcValid : (s.reportOutOfBounds w r).crcValid = s.crcValid := rfl
@[simp] theorem State.reportOutOfBounds_crcOut : (s.reportOutOfBounds w r).crcOut = s.crcOut := rfl
@[simp] theorem State.reportOutOfBounds_prStatus : (s.reportOutOfBounds w r).prStatus = s.prStatus := rfl
@[simp] theorem State.reportOutOfBounds_prErrA : (s.reportOutOfBounds w r).prErrA = s.prErrA := rfl
@[simp] theorem State.reportOutOfBounds_prErrB : (s.reportOutOfBounds w r).prErrB = s.prErrB := rfl
@[simp] theorem State.reportOutOfBounds_prMask : (s.reportOutOfBounds w r).prMask = s.prMask := rfl
@[simp] theorem State.reportOutOfBounds_prLevel : (s.reportOutOfBounds w r).prLevel = s.prLevel := rfl
@[simp] theorem State.reportOutOfBounds_prHash : (s.reportOutOfBounds w r).prHash = s.prHash := rfl
@[simp] theorem State.reportOutOfBounds_prDepth : (s.reportOutOfBounds w r).prDepth = s.prDepth := rfl
@[simp] theorem State.reportOutOfBounds_pending : (s.reportOutOfBounds w r).pending = s.pending := rfl
@[simp] theorem State.reportOutOfBounds_port : (s.reportOutOfBounds w r).port = s.port := rfl
@[simp] theorem State.reportOutOfBounds_readOut : (s.reportOutOfBounds w r).readOut = s.readOut := rfl
end ReportOutOfBounds

section FailDecode
variable (s : State) (k : ErrorKind) (u : Bool) (a b : Nat)
@[simp] theorem State.failDecode_bs : (s.failDecode k u a b).bs = s.bs := rfl
@[simp] theorem State.failDecode_bsLen : (s.failDecode k u a b).bsLen = s.bsLen := rfl
@[simp] theorem State.failDecode_cur : (s.failDecode k u a b).cur = s.cur := rfl
@[simp] theorem State.failDecode_rdStatus : (s.failDecode k u a b).rdStatus = s.rdStatus := rfl
@[simp] theorem State.failDecode_rdErrA : (s.failDecode k u a b).rdErrA = s.rdErrA := rfl
@[simp] theorem State.failDecode_rdErrB : (s.failDecode k u a b).rdErrB = s.rdErrB := rfl
@[simp] theorem State.failDecode_res : (s.failDecode k u a b).res = s.res := rfl
@[simp] theorem State.failDecode_obuf : (s.failDecode k u a b).obuf = s.obuf := rfl
@[simp] theorem State.failDecode_obufLen : (s.failDecode k u a b).obufLen = s.obufLen := rfl
@[simp] theorem State.failDecode_crcReg : (s.failDecode k u a b).crcReg = s.crcReg := rfl
@[simp] theorem State.failDecode_crcValid : (s.failDecode k u a b).crcValid = s.crcValid := rfl
@[simp] theorem State.failDecode_crcOut : (s.failDecode k u a b).crcOut = s.crcOut := rfl
@[simp] theorem State.failDecode_prStatus : (s.failDecode k u a b).prStatus = prStatusOf (codeOf k) u := rfl
@[simp] theorem State.failDecode_prErrA : (s.failDecode k u a b).prErrA = some (context a) := rfl
@[simp] theorem State.failDecode_prErrB : (s.failDecode k u a b).prErrB = some (context b) := rfl
@[simp] theorem State.failDecode_prMask : (s.failDecode k u a b).prMask = none := rfl
@[simp] theorem State.failDecode_prLevel : (s.failDecode k u a b).prLevel = none := rfl
@[simp] theorem State.failDecode_prHash : (s.failDecode k u a b).prHash = #v[none, none, none] := rfl
@[simp] theorem State.failDecode_prDepth : (s.failDecode k u a b).prDepth = #v[none, none, none] := rfl
@[simp] theorem State.failDecode_pending : (s.failDecode k u a b).pending = s.pending := rfl
@[simp] theorem State.failDecode_port : (s.failDecode k u a b).port = s.port := rfl
@[simp] theorem State.failDecode_readOut : (s.failDecode k u a b).readOut = s.readOut := rfl
end FailDecode

section CommitDecode
variable (s : State) (m : Byte) (l : Nat) (h : List Hash) (d : List (BitVec 16))
@[simp] theorem State.commitDecode_bs : (s.commitDecode m l h d).bs = s.bs := rfl
@[simp] theorem State.commitDecode_bsLen : (s.commitDecode m l h d).bsLen = s.bsLen := rfl
@[simp] theorem State.commitDecode_cur : (s.commitDecode m l h d).cur = s.cur := rfl
@[simp] theorem State.commitDecode_rdStatus : (s.commitDecode m l h d).rdStatus = s.rdStatus := rfl
@[simp] theorem State.commitDecode_rdErrA : (s.commitDecode m l h d).rdErrA = s.rdErrA := rfl
@[simp] theorem State.commitDecode_rdErrB : (s.commitDecode m l h d).rdErrB = s.rdErrB := rfl
@[simp] theorem State.commitDecode_res : (s.commitDecode m l h d).res = s.res := rfl
@[simp] theorem State.commitDecode_obuf : (s.commitDecode m l h d).obuf = s.obuf := rfl
@[simp] theorem State.commitDecode_obufLen : (s.commitDecode m l h d).obufLen = s.obufLen := rfl
@[simp] theorem State.commitDecode_crcReg : (s.commitDecode m l h d).crcReg = s.crcReg := rfl
@[simp] theorem State.commitDecode_crcValid : (s.commitDecode m l h d).crcValid = s.crcValid := rfl
@[simp] theorem State.commitDecode_crcOut : (s.commitDecode m l h d).crcOut = s.crcOut := rfl
@[simp] theorem State.commitDecode_prStatus : (s.commitDecode m l h d).prStatus = prStatusOf 0#3 false := rfl
@[simp] theorem State.commitDecode_prErrA : (s.commitDecode m l h d).prErrA = none := rfl
@[simp] theorem State.commitDecode_prErrB : (s.commitDecode m l h d).prErrB = none := rfl
@[simp] theorem State.commitDecode_prMask : (s.commitDecode m l h d).prMask = some m := rfl
@[simp] theorem State.commitDecode_prLevel : (s.commitDecode m l h d).prLevel = some (BitVec.ofNat 2 l) := rfl
@[simp] theorem State.commitDecode_prHash : (s.commitDecode m l h d).prHash = #v[h[0]?, h[1]?, h[2]?] := rfl
@[simp] theorem State.commitDecode_prDepth : (s.commitDecode m l h d).prDepth = #v[d[0]?, d[1]?, d[2]?] := rfl
@[simp] theorem State.commitDecode_pending : (s.commitDecode m l h d).pending = s.pending := rfl
@[simp] theorem State.commitDecode_port : (s.commitDecode m l h d).port = s.port := rfl
@[simp] theorem State.commitDecode_readOut : (s.commitDecode m l h d).readOut = s.readOut := rfl
end CommitDecode

section Drive
variable (s : State) (p : DataPort)
@[simp] theorem State.drive_bs : (s.drive p).bs = s.bs := rfl
@[simp] theorem State.drive_bsLen : (s.drive p).bsLen = s.bsLen := rfl
@[simp] theorem State.drive_cur : (s.drive p).cur = s.cur := rfl
@[simp] theorem State.drive_rdStatus : (s.drive p).rdStatus = s.rdStatus := rfl
@[simp] theorem State.drive_rdErrA : (s.drive p).rdErrA = s.rdErrA := rfl
@[simp] theorem State.drive_rdErrB : (s.drive p).rdErrB = s.rdErrB := rfl
@[simp] theorem State.drive_res : (s.drive p).res = s.res := rfl
@[simp] theorem State.drive_obuf : (s.drive p).obuf = s.obuf := rfl
@[simp] theorem State.drive_obufLen : (s.drive p).obufLen = s.obufLen := rfl
@[simp] theorem State.drive_crcReg : (s.drive p).crcReg = s.crcReg := rfl
@[simp] theorem State.drive_crcValid : (s.drive p).crcValid = s.crcValid := rfl
@[simp] theorem State.drive_crcOut : (s.drive p).crcOut = s.crcOut := rfl
@[simp] theorem State.drive_prStatus : (s.drive p).prStatus = s.prStatus := rfl
@[simp] theorem State.drive_prErrA : (s.drive p).prErrA = s.prErrA := rfl
@[simp] theorem State.drive_prErrB : (s.drive p).prErrB = s.prErrB := rfl
@[simp] theorem State.drive_prMask : (s.drive p).prMask = s.prMask := rfl
@[simp] theorem State.drive_prLevel : (s.drive p).prLevel = s.prLevel := rfl
@[simp] theorem State.drive_prHash : (s.drive p).prHash = s.prHash := rfl
@[simp] theorem State.drive_prDepth : (s.drive p).prDepth = s.prDepth := rfl
@[simp] theorem State.drive_pending : (s.drive p).pending = s.pending := rfl
@[simp] theorem State.drive_port : (s.drive p).port = p := rfl
@[simp] theorem State.drive_readOut : (s.drive p).readOut = s.readOut := rfl
end Drive

section WithPending
variable (s : State) (l : List HostAction)
@[simp] theorem State.withPending_bs : (s.withPending l).bs = s.bs := rfl
@[simp] theorem State.withPending_bsLen : (s.withPending l).bsLen = s.bsLen := rfl
@[simp] theorem State.withPending_cur : (s.withPending l).cur = s.cur := rfl
@[simp] theorem State.withPending_rdStatus : (s.withPending l).rdStatus = s.rdStatus := rfl
@[simp] theorem State.withPending_rdErrA : (s.withPending l).rdErrA = s.rdErrA := rfl
@[simp] theorem State.withPending_rdErrB : (s.withPending l).rdErrB = s.rdErrB := rfl
@[simp] theorem State.withPending_res : (s.withPending l).res = s.res := rfl
@[simp] theorem State.withPending_obuf : (s.withPending l).obuf = s.obuf := rfl
@[simp] theorem State.withPending_obufLen : (s.withPending l).obufLen = s.obufLen := rfl
@[simp] theorem State.withPending_crcReg : (s.withPending l).crcReg = s.crcReg := rfl
@[simp] theorem State.withPending_crcValid : (s.withPending l).crcValid = s.crcValid := rfl
@[simp] theorem State.withPending_crcOut : (s.withPending l).crcOut = s.crcOut := rfl
@[simp] theorem State.withPending_prStatus : (s.withPending l).prStatus = s.prStatus := rfl
@[simp] theorem State.withPending_prErrA : (s.withPending l).prErrA = s.prErrA := rfl
@[simp] theorem State.withPending_prErrB : (s.withPending l).prErrB = s.prErrB := rfl
@[simp] theorem State.withPending_prMask : (s.withPending l).prMask = s.prMask := rfl
@[simp] theorem State.withPending_prLevel : (s.withPending l).prLevel = s.prLevel := rfl
@[simp] theorem State.withPending_prHash : (s.withPending l).prHash = s.prHash := rfl
@[simp] theorem State.withPending_prDepth : (s.withPending l).prDepth = s.prDepth := rfl
@[simp] theorem State.withPending_pending : (s.withPending l).pending = l := rfl
@[simp] theorem State.withPending_port : (s.withPending l).port = s.port := rfl
@[simp] theorem State.withPending_readOut : (s.withPending l).readOut = s.readOut := rfl
end WithPending

section ResetBlock
variable (s : State)
@[simp] theorem resetBlock_bs : (resetBlock s).bs = State.reset.bs := rfl
@[simp] theorem resetBlock_bsLen : (resetBlock s).bsLen = State.reset.bsLen := rfl
@[simp] theorem resetBlock_cur : (resetBlock s).cur = State.reset.cur := rfl
@[simp] theorem resetBlock_rdStatus : (resetBlock s).rdStatus = State.reset.rdStatus := rfl
@[simp] theorem resetBlock_rdErrA : (resetBlock s).rdErrA = State.reset.rdErrA := rfl
@[simp] theorem resetBlock_rdErrB : (resetBlock s).rdErrB = State.reset.rdErrB := rfl
@[simp] theorem resetBlock_res : (resetBlock s).res = State.reset.res := rfl
@[simp] theorem resetBlock_obuf : (resetBlock s).obuf = State.reset.obuf := rfl
@[simp] theorem resetBlock_obufLen : (resetBlock s).obufLen = State.reset.obufLen := rfl
@[simp] theorem resetBlock_crcReg : (resetBlock s).crcReg = State.reset.crcReg := rfl
@[simp] theorem resetBlock_crcValid : (resetBlock s).crcValid = State.reset.crcValid := rfl
@[simp] theorem resetBlock_crcOut : (resetBlock s).crcOut = State.reset.crcOut := rfl
@[simp] theorem resetBlock_prStatus : (resetBlock s).prStatus = State.reset.prStatus := rfl
@[simp] theorem resetBlock_prErrA : (resetBlock s).prErrA = State.reset.prErrA := rfl
@[simp] theorem resetBlock_prErrB : (resetBlock s).prErrB = State.reset.prErrB := rfl
@[simp] theorem resetBlock_prMask : (resetBlock s).prMask = State.reset.prMask := rfl
@[simp] theorem resetBlock_prLevel : (resetBlock s).prLevel = State.reset.prLevel := rfl
@[simp] theorem resetBlock_prHash : (resetBlock s).prHash = State.reset.prHash := rfl
@[simp] theorem resetBlock_prDepth : (resetBlock s).prDepth = State.reset.prDepth := rfl
@[simp] theorem resetBlock_pending : (resetBlock s).pending = s.pending := rfl
@[simp] theorem resetBlock_port : (resetBlock s).port = s.port := rfl
@[simp] theorem resetBlock_readOut : (resetBlock s).readOut = s.readOut := rfl
end ResetBlock

end Sys2Proof.Machine
end

