-- ==== Sys2Proof/Laws/Ops.lean ====
section
/-! SUPPORT. What each shared operation and each command can do, said once: an equation for where a precondition holds,
and an inversion lemma for a command that answers a next state. Later proofs cite these and unfold no meaning. -/
namespace Sys2Proof.Machine

/-! ## Admitted operands -/

theorem widthAdmitted_iff {wid : BitVec 6} : widthAdmitted wid = true ↔ 1 ≤ wid.toNat ∧ wid.toNat ≤ 32 := by
  simp [widthAdmitted, Config.uintMin, Config.uintMax]

theorem bytesAdmitted_iff {nby : BitVec 7} : bytesAdmitted nby = true ↔ 1 ≤ nby.toNat := by
  have := nby.isLt
  simp only [bytesAdmitted, Config.bufMin, Config.bufMax, Bool.and_eq_true, decide_eq_true_eq]
  omega

theorem refsAdmitted_iff {refs : BitVec 3} : refsAdmitted refs = true ↔ refs.toNat ≤ 4 := by
  simp [refsAdmitted, Config.maxRefs]

/-! ## Preconditions -/

theorem withBitString_latched {s : State} {bs : Bits} {len : BitVec 10} (h : s.latched bs len)
    (k : Bits → BitVec 10 → Result) : withBitString s k = k bs len := by
  simp [withBitString, h.1, h.2.1, h.2.2]

theorem withBitString_not_valid {s : State} (h : rdValid s.rdStatus = false) (k : Bits → BitVec 10 → Result) :
    withBitString s k = .refused .noBitstring := by
  simp [withBitString, h]

theorem withBitString_next {s t : State} {k : Bits → BitVec 10 → Result} (h : withBitString s k = .next t) :
    ∃ bs len, s.latched bs len ∧ k bs len = .next t := by
  unfold withBitString at h
  split at h
  · rename_i hv
    split at h
    · rename_i bs len hb hl
      exact ⟨bs, len, ⟨hv, hb, hl⟩, h⟩
    · cases h
  · cases h

theorem withLiveReader_readable {s : State} {bs : Bits} {len : BitVec 10} (h : s.readable bs len)
    (k : Bits → BitVec 10 → Result) : withLiveReader s k = k bs len := by
  simp [withLiveReader, withBitString_latched h.1, h.2]

theorem withLiveReader_faulted {s : State} {bs : Bits} {len : BitVec 10} (h : s.latched bs len)
    (hf : rdFault s.rdStatus = true) (k : Bits → BitVec 10 → Result) : withLiveReader s k = .refused .afterFault := by
  simp [withLiveReader, withBitString_latched h, hf]

theorem withLiveReader_not_valid {s : State} (h : rdValid s.rdStatus = false) (k : Bits → BitVec 10 → Result) :
    withLiveReader s k = .refused .noBitstring :=
  withBitString_not_valid h _

theorem withLiveReader_next {s t : State} {k : Bits → BitVec 10 → Result} (h : withLiveReader s k = .next t) :
    ∃ bs len, s.readable bs len ∧ k bs len = .next t := by
  obtain ⟨bs, len, hl, hk⟩ := withBitString_next h
  cases hf : rdFault s.rdStatus
  · exact ⟨bs, len, ⟨hl, hf⟩, by simpa [hf] using hk⟩
  · simp [hf] at hk

theorem withCrc_valid {s : State} {r : Word} (hv : s.crcValid = true) (hr : s.crcReg = some r) (k : Word → Result) :
    withCrc s k = k r := by
  simp [withCrc, hv, hr]

theorem withCrc_not_valid {s : State} (hv : s.crcValid = false) (k : Word → Result) :
    withCrc s k = .refused .crcUninit := by
  simp [withCrc, hv]

theorem withCrc_next {s t : State} {k : Word → Result} (h : withCrc s k = .next t) :
    ∃ r, s.crcValid = true ∧ s.crcReg = some r ∧ k r = .next t := by
  unfold withCrc at h
  split at h
  · rename_i hv
    split at h
    · rename_i r hr
      exact ⟨r, hv, hr, h⟩
    · cases h
  · cases h

/-! ## Two states the preconditions cannot tell apart -/

theorem mapNext_ite (f : State → State) (c : Prop) [Decidable c] (a b : Result) :
    mapNext f (if c then a else b) = if c then mapNext f a else mapNext f b := by
  split <;> rfl

/-- The precondition asks only for VALID, `BS` and `BS_LEN`: a command over it carries any change of the rest along. -/
theorem withBitString_map {f : State → State} {s u : State} {k k' : Bits → BitVec 10 → Result}
    (hv : rdValid u.rdStatus = rdValid s.rdStatus) (hb : u.bs = s.bs) (hl : u.bsLen = s.bsLen)
    (hk : ∀ bs len, k' bs len = mapNext f (k bs len)) : withBitString u k' = mapNext f (withBitString s k) := by
  unfold withBitString
  rw [hv, hb, hl, mapNext_ite]
  split
  · split
    · exact hk _ _
    · rfl
  · rfl

theorem withLiveReader_map {f : State → State} {s u : State} {k k' : Bits → BitVec 10 → Result}
    (hst : u.rdStatus = s.rdStatus) (hb : u.bs = s.bs) (hl : u.bsLen = s.bsLen)
    (hk : ∀ bs len, k' bs len = mapNext f (k bs len)) : withLiveReader u k' = mapNext f (withLiveReader s k) :=
  withBitString_map (by rw [hst]) hb hl fun bs len => by
    rw [hst, mapNext_ite, hk]; rfl

theorem withCrc_map {f : State → State} {s u : State} {k k' : Word → Result} (hv : u.crcValid = s.crcValid)
    (hr : u.crcReg = s.crcReg) (hk : ∀ r, k' r = mapNext f (k r)) : withCrc u k' = mapNext f (withCrc s k) := by
  unfold withCrc
  rw [hv, hr, mapNext_ite]
  split
  · split
    · exact hk _
    · rfl
  · rfl

/-! ## What a command that answers a next state has done -/

theorem execRdInit_next {len : BitVec 10} {s t : State} (h : execRdInit len s = .next t) :
    portStable s.port len.toNat = true ∧ t = s.latch len := by
  unfold execRdInit at h
  split at h
  · rename_i hp
    exact ⟨hp, by cases h; rfl⟩
  · cases h

theorem execRdUint_next {wid : BitVec 6} {s t : State} (h : execRdUint wid s = .next t) :
    ∃ bs len, s.readable bs len ∧ widthAdmitted wid = true ∧
      (remaining len s.cur < wid.toNat ∧
          t = (s.reportOutOfBounds wid.toNat (remaining len s.cur)).setRes none ∨
        wid.toNat ≤ remaining len s.cur ∧
          t = (s.setRes (some (zext32 (uintAt bs s.cur.toNat wid.toNat)))).advance wid.toNat) := by
  obtain ⟨bs, len, hr, hk⟩ := withLiveReader_next h
  split at hk
  · rename_i hw
    refine ⟨bs, len, hr, hw, ?_⟩
    split at hk
    · rename_i hlt
      exact .inl ⟨hlt, by cases hk; rfl⟩
    · rename_i hge
      exact .inr ⟨Nat.le_of_not_lt hge, by cases hk; rfl⟩
  · cases hk

theorem execRdBuf_next {nby : BitVec 7} {s t : State} (h : execRdBuf nby s = .next t) :
    ∃ bs len, s.readable bs len ∧ bytesAdmitted nby = true ∧
      (remaining len s.cur < bufferBits nby ∧
          t = (s.reportOutOfBounds (bufferBits nby) (remaining len s.cur)).clearObuf ∨
        bufferBits nby ≤ remaining len s.cur ∧
          t = (s.setObuf (bytesAt bs s.cur.toNat nby.toNat)).advance (bufferBits nby)) := by
  obtain ⟨bs, len, hr, hk⟩ := withLiveReader_next h
  split at hk
  · rename_i hw
    refine ⟨bs, len, hr, hw, ?_⟩
    split at hk
    · rename_i hlt
      exact .inl ⟨hlt, by cases hk; rfl⟩
    · rename_i hge
      exact .inr ⟨Nat.le_of_not_lt hge, by cases hk; rfl⟩
  · cases hk

theorem execRdRem_next {s t : State} (h : execRdRem s = .next t) :
    ∃ bs len, s.readable bs len ∧ t = s.setRes (some (zext32 (remaining len s.cur))) := by
  obtain ⟨bs, len, hr, hk⟩ := withLiveReader_next h
  exact ⟨bs, len, hr, by cases hk; rfl⟩

theorem execRdLen_next {s t : State} (h : execRdLen s = .next t) :
    ∃ bs len, s.latched bs len ∧ t = s.setRes (some (zext32 len.toNat)) := by
  obtain ⟨bs, len, hr, hk⟩ := withBitString_next h
  exact ⟨bs, len, hr, by cases hk; rfl⟩

theorem execCrcUpdate_next {x : BitVec 8} {s t : State} (h : execCrcUpdate x s = .next t) :
    ∃ r, s.crcValid = true ∧ s.crcReg = some r ∧ t = s.setCrcReg (crcByte r x) := by
  obtain ⟨r, hv, hr, hk⟩ := withCrc_next h
  exact ⟨r, hv, hr, by cases hk; rfl⟩

theorem execCrcFinal_next {s t : State} (h : execCrcFinal s = .next t) :
    ∃ r, s.crcValid = true ∧ s.crcReg = some r ∧ t = s.setCrcOut (le4 (r ^^^ Config.crcXorOut)) := by
  obtain ⟨r, hv, hr, hk⟩ := withCrc_next h
  exact ⟨r, hv, hr, by cases hk; rfl⟩

theorem execPrDecode_next {refs : BitVec 3} {s t : State} (h : execPrDecode refs s = .next t) :
    ∃ bs len, s.latched bs len ∧ refsAdmitted refs = true ∧
      ((∃ cell, decodeCell bs len.toNat refs.toNat = .ok cell ∧
          t = s.commitDecode cell.mask cell.level cell.hashes cell.depths) ∨
        ∃ e, decodeCell bs len.toNat refs.toNat = .error e ∧ t = s.failDecode e.kind e.sub e.a e.b) := by
  obtain ⟨bs, len, hr, hk⟩ := withBitString_next h
  split at hk
  · rename_i ha
    refine ⟨bs, len, hr, ha, ?_⟩
    split at hk
    · rename_i cell hc
      exact .inl ⟨cell, hc, by cases hk; rfl⟩
    · rename_i e he
      exact .inr ⟨e, he, by cases hk; rfl⟩
  · cases hk

theorem execPrDecode_ok {refs : BitVec 3} {s : State} {bs : Bits} {len : BitVec 10} {cell : Cell}
    (h : s.latched bs len) (ha : refsAdmitted refs = true) (hc : decodeCell bs len.toNat refs.toNat = .ok cell) :
    execPrDecode refs s = .next (s.commitDecode cell.mask cell.level cell.hashes cell.depths) := by
  simp [execPrDecode, withBitString_latched h, ha, hc]

theorem execPrDecode_error {refs : BitVec 3} {s : State} {bs : Bits} {len : BitVec 10} {e : GateError}
    (h : s.latched bs len) (ha : refsAdmitted refs = true) (hc : decodeCell bs len.toNat refs.toNat = .error e) :
    execPrDecode refs s = .next (s.failDecode e.kind e.sub e.a e.b) := by
  simp [execPrDecode, withBitString_latched h, ha, hc]

/-! ## The decoder's reads -/

theorem need_of_le {len c w : Nat} (h : c + w ≤ len) : need len c w = .ok () := by
  simp [need]; omega

theorem need_of_lt {len c w : Nat} (h : len < c + w) (hw : 0 < w) :
    need len c w = .error ⟨.outOfBounds, false, w, len - c⟩ := by
  simp [need]; omega

/-- `n` hash reads that all fit give the `n` hashes in order (R178). -/
theorem readHashes_of_le (bs : Bits) (len n : Nat) : ∀ c : Nat, c + 256 * n ≤ len →
    readHashes bs len n c = .ok ((List.range n).map fun i => hashAt bs (c + 256 * i)) := by
  induction n with
  | zero => intro _ _; rfl
  | succ n ih =>
    intro c h
    have hle : c + 256 ≤ len := by linarith
    have hc : ∀ i, c + 256 * (i + 1) = c + 256 + 256 * i := fun i => by ring
    simp only [readHashes, need_of_le hle, ih (c + 256) (by linarith), bind, Except.bind, List.range_succ_eq_map,
      List.map_cons, List.map_map, Function.comp_def, Nat.succ_eq_add_one, hc, Nat.mul_zero, Nat.add_zero]

/-- `n` depth reads that all fit give the `n` depths in order (R178). -/
theorem readDepths_of_le (bs : Bits) (len n : Nat) : ∀ c : Nat, c + 16 * n ≤ len →
    readDepths bs len n c = .ok ((List.range n).map fun i => depthAt bs (c + 16 * i)) := by
  induction n with
  | zero => intro _ _; rfl
  | succ n ih =>
    intro c h
    have hle : c + 16 ≤ len := by linarith
    have hc : ∀ i, c + 16 * (i + 1) = c + 16 + 16 * i := fun i => by ring
    simp only [readDepths, need_of_le hle, ih (c + 16) (by linarith), bind, Except.bind, List.range_succ_eq_map,
      List.map_cons, List.map_map, Function.comp_def, Nat.succ_eq_add_one, hc, Nat.mul_zero, Nat.add_zero]

/-! ## The bit space -/

theorem firstBits_getLsbD (n : Nat) (v : Bits) (i : Nat) :
    (firstBits n v).getLsbD i = (decide (i < n) && v.getLsbD i) := by
  by_cases h : i < 1023
  · simp [firstBits, BitVec.getLsbD_setWidth, h]
  · simp [BitVec.getLsbD_of_ge _ _ (Nat.le_of_not_lt h)]

theorem portStable_iff (p : DataPort) (n : Nat) :
    portStable p n = true ↔ ∀ i < n, p.moving.getLsbD i = false := by
  simp only [portStable, beq_iff_eq]
  constructor
  · intro h i hi
    have := congrArg (fun v : Bits => v.getLsbD i) h
    simpa [firstBits_getLsbD, hi] using this
  · intro h
    apply BitVec.eq_of_getLsbD_eq
    intro i _
    simp only [firstBits_getLsbD]
    by_cases hi : i < n <;> simp [hi]
    exact h i hi

@[simp] theorem uintAt_zero (bs : Bits) (c : Nat) : uintAt bs c 0 = 0 := rfl

/-- Reading one more bit doubles what was read and adds the bit (R53). -/
theorem uintAt_succ (bs : Bits) (c n : Nat) : uintAt bs c (n + 1) = 2 * uintAt bs c n + bitAt bs (c + n) := by
  have h : ∀ i ∈ List.range n, bitAt bs (c + i) * 2 ^ (n + 1 - 1 - i) = 2 * (bitAt bs (c + i) * 2 ^ (n - 1 - i)) := by
    intro i hi
    have hi := List.mem_range.mp hi
    obtain ⟨k, rfl⟩ : ∃ k, n = i + 1 + k := ⟨n - (i + 1), by omega⟩
    have h1 : i + 1 + k + 1 - 1 - i = k + 1 := by omega
    have h2 : i + 1 + k - 1 - i = k := by omega
    rw [h1, h2, pow_succ]
    ring
  simp only [uintAt]
  rw [List.range_succ, List.map_append, List.sum_append, List.map_congr_left h, List.sum_map_mul_left]
  simp

theorem bitAt_le_one (bs : Bits) (i : Nat) : bitAt bs i ≤ 1 := Bool.toNat_le _

/-- A read of `n` bits is an n-bit number (R11). -/
theorem uintAt_lt (bs : Bits) (c n : Nat) : uintAt bs c n < 2 ^ n := by
  induction n with
  | zero => simp
  | succ n ih =>
    have := bitAt_le_one bs (c + n)
    rw [uintAt_succ, pow_succ]
    omega

end Sys2Proof.Machine
end

