-- ==== Sys2Proof/Laws/Pruned.lean ====
section
/-! SUPPORT. The decoder's outcome as one chain of cases over the type byte, the reference count, the length and the mask
byte: what a proof about PR.DECODE cites instead of unfolding the gates. -/
namespace Sys2Proof.Machine

theorem error_bind {α β : Type} (e : GateError) (f : α → Except GateError β) : (Except.error e >>= f) = .error e :=
  rfl

theorem ok_bind {α β : Type} (a : α) (f : α → Except GateError β) : (Except.ok a >>= f) = f a := rfl

theorem byteAt_toNat (bs : Bits) (c : Nat) : (byteAt bs c 0).toNat = uintAt bs c 8 := by
  have := uintAt_lt bs c 8
  simp [byteAt]
  omega

/-- The masks whose level is in 1..3, and the size every mask but 0 demands (R137, R177). -/
theorem mask_facts : ∀ m : BitVec 8,
    ((1 ≤ level m ∧ level m ≤ 3) ↔ (1 ≤ m.toNat ∧ m.toNat ≤ 7)) ∧
      (1 ≤ m.toNat → cellSize m = 16 + 272 * hashCount m) := by decide

/-- Steps 3 to 7 for a mask 1 to 7 at the length its size check admits: masks 1, 3 and 7 read all they need, the others
run off the end at the second or the third hash (R178, R183). -/
theorem readHashes_of_mask (bs : Bits) (m : BitVec 8) (h : 1 ≤ m.toNat ∧ m.toNat ≤ 7) :
    readHashes bs (16 + 272 * hashCount m) (level m) 16 =
      if m = 1#8 then .ok [hashAt bs 16]
      else if m = 3#8 then .ok [hashAt bs 16, hashAt bs 272]
      else if m = 7#8 then .ok [hashAt bs 16, hashAt bs 272, hashAt bs 528]
      else if m = 2#8 ∨ m = 4#8 then .error ⟨.outOfBounds, false, 256, 16⟩
      else .error ⟨.outOfBounds, false, 256, 32⟩ := by
  have hm : m = 1#8 ∨ m = 2#8 ∨ m = 3#8 ∨ m = 4#8 ∨ m = 5#8 ∨ m = 6#8 ∨ m = 7#8 := by
    bv_omega
  have counts : hashCount 1#8 = 1 ∧ hashCount 2#8 = 1 ∧ hashCount 3#8 = 2 ∧ hashCount 4#8 = 1 ∧ hashCount 5#8 = 2 ∧
      hashCount 6#8 = 2 ∧ hashCount 7#8 = 3 := by decide
  have levels : level 1#8 = 1 ∧ level 2#8 = 2 ∧ level 3#8 = 2 ∧ level 4#8 = 3 ∧ level 5#8 = 3 ∧ level 6#8 = 3 ∧
      level 7#8 = 3 := by decide
  rcases hm with rfl | rfl | rfl | rfl | rfl | rfl | rfl <;>
    simp [readHashes, need, Config.hashBits, counts, levels, ok_bind, error_bind]

theorem readDepths_of_mask (bs : Bits) (m : BitVec 8) (h : m = 1#8 ∨ m = 3#8 ∨ m = 7#8) :
    readDepths bs (16 + 272 * hashCount m) (level m) (16 + 256 * level m) =
      if m = 1#8 then .ok [depthAt bs 272]
      else if m = 3#8 then .ok [depthAt bs 528, depthAt bs 544]
      else .ok [depthAt bs 784, depthAt bs 800, depthAt bs 816] := by
  rcases h with rfl | rfl | rfl <;> rfl

/-- Every outcome of the decoder, in the order of its gates (R173 to R179, R208). -/
theorem decodeCell_eq (bs : Bits) (len refs : Nat) :
    decodeCell bs len refs =
      if len < 8 then .error ⟨.outOfBounds, false, 8, len⟩
      else if uintAt bs 0 8 ≠ 1 then .error ⟨.invalidCellType, false, 1, uintAt bs 0 8⟩
      else if refs ≠ 0 then .error ⟨.invalidStructure, false, 0, refs⟩
      else if len = 280 then .ok ⟨1#8, 1, [hashAt bs 8], [depthAt bs 264], 280⟩
      else if len < 16 then .error ⟨.outOfBounds, false, 8, len - 8⟩
      else if ¬(1 ≤ (byteAt bs 8 0).toNat ∧ (byteAt bs 8 0).toNat ≤ 7) then
        .error ⟨.invalidLevel, false, (byteAt bs 8 0).toNat, level (byteAt bs 8 0)⟩
      else if len ≠ 16 + 272 * hashCount (byteAt bs 8 0) then
        .error ⟨.invalidStructure, true, 16 + 272 * hashCount (byteAt bs 8 0), len⟩
      else if byteAt bs 8 0 = 1#8 then .ok ⟨1#8, 1, [hashAt bs 16], [depthAt bs 272], 288⟩
      else if byteAt bs 8 0 = 3#8 then
        .ok ⟨3#8, 2, [hashAt bs 16, hashAt bs 272], [depthAt bs 528, depthAt bs 544], 560⟩
      else if byteAt bs 8 0 = 7#8 then
        .ok ⟨7#8, 3, [hashAt bs 16, hashAt bs 272, hashAt bs 528], [depthAt bs 784, depthAt bs 800, depthAt bs 816], 832⟩
      else if byteAt bs 8 0 = 2#8 ∨ byteAt bs 8 0 = 4#8 then .error ⟨.outOfBounds, false, 256, 16⟩
      else .error ⟨.outOfBounds, false, 256, 32⟩ := by
  simp only [decodeCell, gateType, gateRefs, gateLayout, gateMask, gateSize, Config.prType, Config.prLegacyLen,
    Config.prMaxLevel, Config.hashBits, Config.depthBits]
  by_cases h1 : len < 8
  · rw [need_of_lt (by omega) (by omega), if_pos h1]; simp [error_bind]
  rw [need_of_le (by omega), if_neg h1]
  simp only [ok_bind]
  by_cases h2 : uintAt bs 0 8 = 1
  swap
  · simp [h2, error_bind]
  by_cases h3 : refs = 0
  swap
  · simp [h2, h3, ok_bind, error_bind]
  by_cases h4 : len = 280
  · subst h4; subst h3; simp [h2, ok_bind]; rfl
  simp only [h2, h3, h4, if_true, if_false, ok_bind, ne_eq, not_true_eq_false]
  by_cases h5 : len < 16
  · rw [need_of_lt (by omega) (by omega), if_pos h5]; simp [error_bind]
  rw [need_of_le (by omega), if_neg h5]
  obtain ⟨f1, f2⟩ := mask_facts (byteAt bs 8 0)
  generalize byteAt bs 8 0 = m at *
  simp only [ok_bind]
  by_cases h6 : 1 ≤ m.toNat ∧ m.toNat ≤ 7
  swap
  · rw [if_neg (by rwa [f1]), if_pos h6]; simp [error_bind]
  rw [if_pos (f1.2 h6)]
  simp only [ok_bind, f2 h6.1, h6, not_true_eq_false, if_false, and_self]
  by_cases h7 : len = 16 + 272 * hashCount m
  swap
  · simp [h7, error_bind]
  subst h7
  simp only [if_true, ok_bind, not_true_eq_false, if_false, readHashes_of_mask bs m h6]
  by_cases m1 : m = 1#8
  · subst m1; rfl
  by_cases m3 : m = 3#8
  · subst m3; rfl
  by_cases m7 : m = 7#8
  · subst m7; rfl
  by_cases m2 : m = 2#8 ∨ m = 4#8 <;> simp [m1, m3, m7, m2, error_bind]

/-- A decode that passes every gate: what held of the input, and the cell (R182, R184, R187). -/
theorem decodeCell_ok_cases {bs : Bits} {len refs : Nat} {cell : Cell} (h : decodeCell bs len refs = .ok cell) :
    8 ≤ len ∧ uintAt bs 0 8 = 1 ∧ refs = 0 ∧
      (len = 280 ∧ cell = ⟨1#8, 1, [hashAt bs 8], [depthAt bs 264], 280⟩ ∨
        len = 288 ∧ byteAt bs 8 0 = 1#8 ∧ cell = ⟨1#8, 1, [hashAt bs 16], [depthAt bs 272], 288⟩ ∨
        len = 560 ∧ byteAt bs 8 0 = 3#8 ∧
          cell = ⟨3#8, 2, [hashAt bs 16, hashAt bs 272], [depthAt bs 528, depthAt bs 544], 560⟩ ∨
        len = 832 ∧ byteAt bs 8 0 = 7#8 ∧
          cell = ⟨7#8, 3, [hashAt bs 16, hashAt bs 272, hashAt bs 528],
            [depthAt bs 784, depthAt bs 800, depthAt bs 816], 832⟩) := by
  rw [decodeCell_eq] at h
  by_cases h1 : len < 8
  · rw [if_pos h1] at h; cases h
  rw [if_neg h1] at h
  by_cases h2 : uintAt bs 0 8 = 1
  swap
  · rw [if_pos h2] at h; cases h
  rw [if_neg (not_not_intro h2)] at h
  by_cases h3 : refs = 0
  swap
  · rw [if_pos h3] at h; cases h
  rw [if_neg (not_not_intro h3)] at h
  refine ⟨Nat.le_of_not_lt h1, h2, h3, ?_⟩
  by_cases h4 : len = 280
  · rw [if_pos h4] at h; cases h; exact .inl ⟨h4, rfl⟩
  rw [if_neg h4] at h
  by_cases h5 : len < 16
  · rw [if_pos h5] at h; cases h
  rw [if_neg h5] at h
  by_cases h6 : 1 ≤ (byteAt bs 8 0).toNat ∧ (byteAt bs 8 0).toNat ≤ 7
  swap
  · rw [if_pos h6] at h; cases h
  rw [if_neg (not_not_intro h6)] at h
  by_cases h7 : len = 16 + 272 * hashCount (byteAt bs 8 0)
  swap
  · rw [if_pos h7] at h; cases h
  rw [if_neg (not_not_intro h7)] at h
  by_cases m1 : byteAt bs 8 0 = 1#8
  · rw [if_pos m1] at h; cases h; exact .inr (.inl ⟨by rw [h7, m1]; decide, m1, rfl⟩)
  rw [if_neg m1] at h
  by_cases m3 : byteAt bs 8 0 = 3#8
  · rw [if_pos m3] at h; cases h; exact .inr (.inr (.inl ⟨by rw [h7, m3]; decide, m3, rfl⟩))
  rw [if_neg m3] at h
  by_cases m7 : byteAt bs 8 0 = 7#8
  · rw [if_pos m7] at h; cases h; exact .inr (.inr (.inr ⟨by rw [h7, m7]; decide, m7, rfl⟩))
  rw [if_neg m7] at h
  by_cases m2 : byteAt bs 8 0 = 2#8 ∨ byteAt bs 8 0 = 4#8
  · rw [if_pos m2] at h; cases h
  · rw [if_neg m2] at h; cases h

/-- A decode that a gate ends: what held of the input, and the error, gate by gate (R202, R203, R204, R208). -/
theorem decodeCell_error_cases {bs : Bits} {len refs : Nat} {e : GateError}
    (h : decodeCell bs len refs = .error e) :
    len < 8 ∧ e = ⟨.outOfBounds, false, 8, len⟩ ∨
    8 ≤ len ∧ uintAt bs 0 8 ≠ 1 ∧ e = ⟨.invalidCellType, false, 1, uintAt bs 0 8⟩ ∨
    8 ≤ len ∧ uintAt bs 0 8 = 1 ∧ refs ≠ 0 ∧ e = ⟨.invalidStructure, false, 0, refs⟩ ∨
    8 ≤ len ∧ uintAt bs 0 8 = 1 ∧ refs = 0 ∧ len ≠ 280 ∧
      (len < 16 ∧ e = ⟨.outOfBounds, false, 8, len - 8⟩ ∨
        16 ≤ len ∧ ((byteAt bs 8 0).toNat = 0 ∨ 8 ≤ (byteAt bs 8 0).toNat) ∧
          e = ⟨.invalidLevel, false, (byteAt bs 8 0).toNat, level (byteAt bs 8 0)⟩ ∨
        16 ≤ len ∧ 1 ≤ (byteAt bs 8 0).toNat ∧ (byteAt bs 8 0).toNat ≤ 7 ∧
          len ≠ 16 + 272 * hashCount (byteAt bs 8 0) ∧
          e = ⟨.invalidStructure, true, 16 + 272 * hashCount (byteAt bs 8 0), len⟩ ∨
        len = 288 ∧ (byteAt bs 8 0 = 2#8 ∨ byteAt bs 8 0 = 4#8) ∧ e = ⟨.outOfBounds, false, 256, 16⟩ ∨
        len = 560 ∧ (byteAt bs 8 0 = 5#8 ∨ byteAt bs 8 0 = 6#8) ∧ e = ⟨.outOfBounds, false, 256, 32⟩) := by
  rw [decodeCell_eq] at h
  by_cases h1 : len < 8
  · rw [if_pos h1] at h; cases h; exact .inl ⟨h1, rfl⟩
  rw [if_neg h1] at h
  have g1 := Nat.le_of_not_lt h1
  by_cases h2 : uintAt bs 0 8 = 1
  swap
  · rw [if_pos h2] at h; cases h; exact .inr (.inl ⟨g1, h2, rfl⟩)
  rw [if_neg (not_not_intro h2)] at h
  by_cases h3 : refs = 0
  swap
  · rw [if_pos h3] at h; cases h; exact .inr (.inr (.inl ⟨g1, h2, h3, rfl⟩))
  rw [if_neg (not_not_intro h3)] at h
  by_cases h4 : len = 280
  · rw [if_pos h4] at h; cases h
  rw [if_neg h4] at h
  refine .inr (.inr (.inr ⟨g1, h2, h3, h4, ?_⟩))
  by_cases h5 : len < 16
  · rw [if_pos h5] at h; cases h; exact .inl ⟨h5, rfl⟩
  rw [if_neg h5] at h
  have g5 := Nat.le_of_not_lt h5
  by_cases h6 : 1 ≤ (byteAt bs 8 0).toNat ∧ (byteAt bs 8 0).toNat ≤ 7
  swap
  · rw [if_pos h6] at h; cases h; exact .inr (.inl ⟨g5, by omega, rfl⟩)
  rw [if_neg (not_not_intro h6)] at h
  by_cases h7 : len = 16 + 272 * hashCount (byteAt bs 8 0)
  swap
  · rw [if_pos h7] at h; cases h; exact .inr (.inr (.inl ⟨g5, h6.1, h6.2, h7, rfl⟩))
  rw [if_neg (not_not_intro h7)] at h
  by_cases m1 : byteAt bs 8 0 = 1#8
  · rw [if_pos m1] at h; cases h
  rw [if_neg m1] at h
  by_cases m3 : byteAt bs 8 0 = 3#8
  · rw [if_pos m3] at h; cases h
  rw [if_neg m3] at h
  by_cases m7 : byteAt bs 8 0 = 7#8
  · rw [if_pos m7] at h; cases h
  rw [if_neg m7] at h
  by_cases m2 : byteAt bs 8 0 = 2#8 ∨ byteAt bs 8 0 = 4#8
  · rw [if_pos m2] at h; cases h
    exact .inr (.inr (.inr (.inl ⟨by rw [h7]; rcases m2 with m | m <;> rw [m] <;> decide, m2, rfl⟩)))
  · rw [if_neg m2] at h; cases h
    have m5 : byteAt bs 8 0 = 5#8 ∨ byteAt bs 8 0 = 6#8 := by
      generalize byteAt bs 8 0 = m at *
      clear h7
      bv_omega
    exact .inr (.inr (.inr (.inr ⟨by rw [h7]; rcases m5 with m | m <;> rw [m] <;> decide, m5, rfl⟩)))

end Sys2Proof.Machine
end

