-- ==== Sys2Proof/Tests/Slice0.lean ====
section
/-! SUPPORT. Tests on fixed values, each with its expected result from the spec's own vectors (95_test_vectors.md, cited
by its id), and for every statement with hypotheses a witness that something meets them. A test that samples the port or
runs the whole decoder is evaluated by the kernel (`decide +kernel`), the others by `decide`. -/
namespace Sys2Proof.Tests
open Sys2Proof Sys2Proof.Machine

/-! ## Helpers -/

/-- A port that holds the given bytes, still. -/
def port (b : List Byte) : DataPort := { level := portOfBytes b, moving := 0#1023 }

/-- A block that has latched `len` bits of the given bytes and read `cur` of them. -/
def reading (len : BitVec 10) (b : List Byte) (cur : BitVec 10) : State :=
  { State.reset with bs := some (firstBits len.toNat (portOfBytes b)), bsLen := some len, cur := cur,
                     rdStatus := 0x01#8 }

/-- A block that has latched the given bits: bit `i` of the stream is bit `i` of the literal. -/
def holding (len : BitVec 10) (bits : Bits) (cur : BitVec 10) : State :=
  { State.reset with bs := some bits, bsLen := some len, cur := cur, rdStatus := 0x01#8 }

/-- The same after a bounds failure that asked for `a` bits with `b` left. -/
def faulted (len : BitVec 10) (bits : Bits) (cur : BitVec 10) (a b : BitVec 16) : State :=
  { holding len bits cur with rdStatus := 0x07#8, rdErrA := some a, rdErrB := some b }

/-- A block in the middle of a checksum. -/
def summing (r : Word) : State := { State.reset with crcReg := some r, crcValid := true }

/-- What a next state shows; `none` for a fault or a refusal. -/
def shows {α : Type} (f : State → α) : Result → Option α
  | .next t => some (f t)
  | .fault _ => none
  | .refused _ => none

theorem next_of_shows {α : Type} {f : State → α} {r : Result} {v : α} (h : shows f r = some v) :
    ∃ t, r = .next t ∧ f t = v := by
  cases r with
  | next t => exact ⟨t, rfl, by simpa [shows] using h⟩
  | fault _ => cases h
  | refused _ => cases h

/-- Why a command or a read was refused. -/
def refusal : Result → Option Refusal
  | .next _ => none
  | .fault _ => none
  | .refused r => some r

/-- The PR unit's status, context, mask and level as numbers, in this order. -/
def prNumbers (t : State) : List (Option Nat) :=
  [some t.prStatus.toNat, t.prErrA.map BitVec.toNat, t.prErrB.map BitVec.toNat, t.prMask.map BitVec.toNat,
    t.prLevel.map BitVec.toNat]

/-- The first decoded entry, hash and depth. -/
def prFirst (t : State) : Option (List Byte) × Option (BitVec 16) := (t.prHash[0].map Vector.toList, t.prDepth[0])

/-- The bytes 00, 01, ..., 1F. -/
def upTo1F : List Byte := (List.range 32).map (BitVec.ofNat 8)

/-! ## Ill-formed terms, one for each check (R75) -/

theorem test_width_0_ill_formed : (Instr.rdUint 0).wellFormed = false := by decide
theorem test_width_33_ill_formed : (Instr.rdUint 33).wellFormed = false := by decide
theorem test_bytes_0_ill_formed : (Instr.rdBuf 0).wellFormed = false := by decide
theorem test_refs_5_ill_formed : (Instr.prDecode 5).wellFormed = false := by decide
theorem test_limits_well_formed :
    (Instr.rdUint 1).wellFormed ∧ (Instr.rdUint 32).wellFormed ∧ (Instr.rdBuf 1).wellFormed ∧
      (Instr.rdBuf 127).wellFormed ∧ (Instr.prDecode 0).wellFormed ∧ (Instr.prDecode 4).wellFormed := by decide

/-! ## Decoding, each word written out from R72, R73 and R76 -/

-- UNIT 0000, FUNC 0000, LEN = 1023
theorem test_decode_rdInit : decode 0b00000000000000000000001111111111#32 = .ok (.rdInit 1023) := by decide
-- UNIT 0000, FUNC 0001, WID = 32
theorem test_decode_rdUint : decode 0b00000001000000000000000000100000#32 = .ok (.rdUint 32) := by decide
-- UNIT 0000, FUNC 0010, NBY = 127
theorem test_decode_rdBuf : decode 0b00000010000000000000000001111111#32 = .ok (.rdBuf 127) := by decide
theorem test_decode_rdRem : decode 0b00000011000000000000000000000000#32 = .ok .rdRem := by decide
theorem test_decode_rdLen : decode 0b00000100000000000000000000000000#32 = .ok .rdLen := by decide
-- UNIT 0001, FUNC 0000, VAL = 0b101
theorem test_decode_lmLevel : decode 0b00010000000000000000000000000101#32 = .ok (.lmLevel 0b101) := by decide
-- UNIT 0001, FUNC 0001, APN = 3 above VAL = 170
theorem test_decode_lmApply : decode 0b00010001000000000000001110101010#32 = .ok (.lmApply 170 3) := by decide
theorem test_decode_lmHashcount : decode 0b00010010000000000000000010000000#32 = .ok (.lmHashcount 128) := by decide
theorem test_decode_crcInit : decode 0b00100000000000000000000000000000#32 = .ok .crcInit := by decide
theorem test_decode_crcUpdate : decode 0b00100001000000000000000000110001#32 = .ok (.crcUpdate 0x31) := by decide
theorem test_decode_crcFinal : decode 0b00100010000000000000000000000000#32 = .ok .crcFinal := by decide
-- UNIT 0011, FUNC 0000, REFS = 5: decoded, and refused later (P41)
theorem test_decode_prDecode : decode 0b00110000000000000000000000000101#32 = .ok (.prDecode 5) := by decide

-- V40 to V43, X25, X26, P43, P44, and 0x10000100 of section 3
theorem test_reserved_words :
    decode 0x01000048#32 = .error .mustBeZero ∧ decode 0x00000400#32 = .error .mustBeZero ∧
      decode 0x05000000#32 = .error .func ∧ decode 0x40000000#32 = .error .unit ∧
      decode 0x21000100#32 = .error .mustBeZero ∧ decode 0x23000000#32 = .error .func ∧
      decode 0x30000008#32 = .error .mustBeZero ∧ decode 0x31000000#32 = .error .func ∧
      decode 0x10000100#32 = .error .mustBeZero := by decide

/-- The host's way in: a word given as a number. -/
theorem test_table_word : decodeTableWord 32 0x110003AA = some (.lmApply 170 3) ∧
    decodeTableWord 32 0x40000000 = none := by decide

/-- A word placed for fetching runs as the first command after reset (PROG2, command 1). -/
theorem test_placed_word_runs :
    shows (fun t => (t.crcReg, t.crcValid)) (step (State.reset.withFetchWord 32 0x20000000)) =
      some (some 0xFFFFFFFF#32, true) := by decide

/-- The words the vectors write beside their assembly lines. -/
theorem test_encode :
    encode (.rdInit 560) = 0x00000230#32 ∧ encode (.lmApply 255 7) = 0x110007FF#32 ∧
      encode (.lmLevel 255) = 0x100000FF#32 ∧ encode (.crcUpdate 0x39) = 0x21000039#32 ∧
      encode (.prDecode 1) = 0x30000001#32 := by decide

/-! ## Refusals of a step -/

-- V43
theorem test_reserved_word_refused :
    refusal (step (State.reset.withFetchWord 32 0x40000000)) = some (.reserved .unit) := by decide
-- V44
theorem test_read_of_no_value_refused :
    refusal (step (State.reset.withPending [.read .res])) = some .noValue := by decide
-- R41: CUR is 0 after reset, and readable (R40, log 7)
theorem test_read_of_cursor :
    shows (fun t => t.readOut) (step (State.reset.withPending [.read .cur])) = some (some (.num 0)) := by decide

/-! ## BR unit -/

-- PROG1, command 1: 1010 0101 0011 1100 1111 0000
theorem test_rdInit :
    shows (fun t => (t.bs.map fun v => bitList v 24, t.bsLen, t.cur, t.rdStatus))
        (exec (.rdInit 24) (State.reset.drive (port [0xA5#8, 0x3C#8, 0xF0#8]))) =
      some (some [true, false, true, false, false, true, false, true, false, false, true, true, true, true, false,
        false, true, true, true, true, false, false, false, false], some 24#10, 0#10, 0x01#8) := by decide +kernel
-- V18: RD.INIT clears the fault
theorem test_rdInit_clears_fault :
    shows (fun t => (t.rdStatus, t.rdErrA, t.rdErrB)) (exec (.rdInit 8) (faulted 0 0 0 1 0)) =
      some (0x01#8, none, none) := by decide +kernel
-- V2
theorem test_rdUint :
    shows (fun t => (t.res, t.cur)) (exec (.rdUint 32) (reading 40 [0x12#8, 0x34#8, 0x56#8, 0x78#8, 0x9A#8] 4)) =
      some (some 0x23456789#32, 36#10) := by decide +kernel
-- V7
theorem test_rdUint_out_of_bounds :
    shows (fun t => (t.res, t.cur, t.rdStatus, t.rdErrA, t.rdErrB)) (exec (.rdUint 1) (holding 33 0 33)) =
      some (none, 33#10, 0x07#8, some 1#16, some 0#16) := by decide
-- V9
theorem test_rdBuf :
    shows (fun t => (t.obuf, t.obufLen, t.cur)) (exec (.rdBuf 3) (reading 28 [0xDE#8, 0xAD#8, 0xBE#8, 0xE0#8] 3)) =
      some (some [0xF5#8, 0x6D#8, 0xF7#8], some 3#7, 27#10) := by decide +kernel
-- V11
theorem test_rdBuf_out_of_bounds :
    shows (fun t => (t.obuf, t.cur, t.rdStatus, t.rdErrA, t.rdErrB)) (exec (.rdBuf 1) (holding 28 0 27)) =
      some (none, 27#10, 0x07#8, some 8#16, some 1#16) := by decide
-- V10
theorem test_rdRem : shows (fun t => t.res) (exec .rdRem (holding 28 0 27)) = some (some 1#32) := by decide
-- V38
theorem test_rdRem_after_fault : refusal (exec .rdRem (faulted 0 0 0 1 0)) = some .afterFault := by decide
-- V17
theorem test_rdLen_after_fault :
    shows (fun t => (t.res, t.rdStatus)) (exec .rdLen (faulted 0 0 0 1 0)) = some (some 0#32, 0x07#8) := by decide
-- V32
theorem test_rdLen_no_bitstring : refusal (exec .rdLen State.reset) = some .noBitstring := by decide

/-! ## LM unit -/

-- rows 8 and 170 of section 3's table
theorem test_lmLevel :
    shows (fun t => t.res) (exec (.lmLevel 8) State.reset) = some (some 4#32) ∧
      shows (fun t => t.res) (exec (.lmLevel 170) State.reset) = some (some 8#32) := by decide
theorem test_lmApply :
    shows (fun t => t.res) (exec (.lmApply 170 3) State.reset) = some (some 10#32) ∧
      shows (fun t => t.res) (exec (.lmApply 0b101 1) State.reset) = some (some 1#32) := by decide
theorem test_lmHashcount :
    shows (fun t => t.res) (exec (.lmHashcount 170) State.reset) = some (some 4#32) ∧
      shows (fun t => t.res) (exec (.lmHashcount 255) State.reset) = some (some 8#32) := by decide

/-! ## CRC unit -/

-- X24's first half: CRC.INIT does not write CRC_OUT
theorem test_crcInit :
    shows (fun t => (t.crcReg, t.crcValid, t.crcOut)) (exec .crcInit State.reset) =
      some (some 0xFFFFFFFF#32, true, none) := by decide
-- PROG2, command 2
theorem test_crcUpdate :
    shows (fun t => t.crcReg) (exec (.crcUpdate 0x31) (summing 0xFFFFFFFF#32)) = some (some 0x6F0A661C#32) := by decide
-- PROG2, command 10
theorem test_crcUpdate_last :
    shows (fun t => t.crcReg) (exec (.crcUpdate 0x39) (summing 0x9F787F65#32)) = some (some 0x1CF96D7C#32) := by decide
-- PROG2, command 11
theorem test_crcFinal :
    shows (fun t => (t.crcOut, t.crcReg)) (exec .crcFinal (summing 0x1CF96D7C#32)) =
      some (some #v[0x83#8, 0x92#8, 0x06#8, 0xE3#8], some 0x1CF96D7C#32) := by decide
-- X23
theorem test_crcFinal_uninit : refusal (exec .crcFinal State.reset) = some .crcUninit := by decide
-- X1 and X2
theorem test_crc32c :
    crc32c [] = #v[0x00#8, 0x00#8, 0x00#8, 0x00#8] ∧
      crc32c [0x31#8, 0x32#8, 0x33#8, 0x34#8, 0x35#8, 0x36#8, 0x37#8, 0x38#8, 0x39#8] =
        #v[0x83#8, 0x92#8, 0x06#8, 0xE3#8] := by decide +kernel

/-! ## PR unit -/

-- P1, then P4
theorem test_prDecode_layouts :
    [exec (.prDecode 0) (reading 288 ([0x01#8, 0x01#8] ++ upTo1F ++ [0x00#8, 0x05#8]) 0),
        exec (.prDecode 0) (reading 280 (0x01#8 :: 0x07#8 :: upTo1F.tail ++ [0x12#8, 0x34#8]) 0)].map
          (shows fun t => (prNumbers t, prFirst t)) =
      [some ([some 0x01, none, none, some 1, some 1], some upTo1F, some 5#16),
        some ([some 0x01, none, none, some 1, some 1], some (0x07#8 :: upTo1F.tail), some 4660#16)] := by
  decide +kernel
-- P6, P7, P12, P15, P17, P19, P45 (which ignores RD_STATUS.FAULT): one failing gate each, the bits after the header 0
theorem test_prDecode_gates :
    [exec (.prDecode 1) (holding 280 0x80#1023 0), exec (.prDecode 0) (holding 280 0xC0#1023 0),
        exec (.prDecode 0) (holding 288 0x1080#1023 0), exec (.prDecode 0) (holding 288 0x2080#1023 0),
        exec (.prDecode 0) (holding 560 0x6080#1023 0),
        exec (.prDecode 0) (holding 287 0x8080#1023 0),
        exec (.prDecode 0) (faulted 8 0x80#1023 0 16 8)].map (shows prNumbers) =
      [some [some 0x07, some 0, some 1, none, none], some [some 0x05, some 1, some 3, none, none],
        some [some 0x09, some 8, some 4, none, none], some [some 0x03, some 256, some 16, none, none],
        some [some 0x03, some 256, some 32, none, none], some [some 0x17, some 288, some 287, none, none],
        some [some 0x03, some 8, some 0, none, none]] := by
  decide +kernel

/-! ## Assembly (R79, R80) -/

theorem test_assemble_apply :
    assemble "lm.apply 0b101, 1 ; a comment".toList = some [.command 0x11000105#32 DataPort.still0] := by decide +kernel
theorem test_assemble_crc_buf :
    assemble "crc.buf 0x31".toList =
      some [.command 0x20000000#32 DataPort.still0, .command 0x21000031#32 DataPort.still0,
        .command 0x22000000#32 DataPort.still0] := by decide +kernel
theorem test_assemble_cell :
    assemble "pr.cell 8, 0x01, 0".toList =
      some [.command 0x00000008#32 (port [0x01#8]), .command 0x30000000#32 DataPort.still0] := by decide +kernel

-- R79: bits past LEN in the last byte are written 0; for LEN = 1023 that is index 1023, no wire of the port
theorem test_assemble_bit_past_the_end :
    portBytesFit 7 [0x02#8] = true ∧ portBytesFit 7 [0x01#8] = false ∧ portBytesFit 0 [] = true ∧
      portBytesFit 1023 (List.replicate 127 0xFF#8 ++ [0xFE#8]) = true ∧
      portBytesFit 1023 (List.replicate 128 0xFF#8) = false := by decide +kernel

/-! ## Runs -/

-- V16 and R242: a run shows the status, its context and the cleared result, not where the cursor stands
theorem test_run_shows_status_and_results :
    (observation [.init 0 [], .plain (.rdUint 1)]).map (fun l => (l.length, l.take 4)) =
      some (18, [some (.num 0x07), some (.num 1), some (.num 0), none]) := by decide +kernel

/-! ## Witnesses: something meets the hypotheses of each statement, and of each of its clauses, at the edges of its
range -/

/-- The host asks for one command. -/
def asking (w : Word) : State := State.reset.withPending [.command w DataPort.still0]

/-- A port whose wire 0 and wire 1022 move. -/
def moving : DataPort := { level := 0#1023, moving := BitVec.ofNat 1023 (2 ^ 1022 + 1) }

theorem witness_EncodeDecodeRoundTrip : decode (0x00000018 : Word) = .ok (.rdInit 24) := by decide

theorem witness_ReservedWordsRefused :
    [0x40000000#32, 0xFFFFFFFF#32, 0x05000000#32, 0x0F000000#32, 0x13000000#32, 0x23000000#32, 0x31000000#32,
        0x00000400#32, 0x01000040#32, 0x02000080#32, 0x03000001#32, 0x04000001#32, 0x10000100#32, 0x11000800#32,
        0x12000100#32, 0x20000001#32, 0x21000100#32, 0x22000001#32, 0x30000008#32].map decode =
      [.error .unit, .error .unit, .error .func, .error .func, .error .func, .error .func, .error .func,
        .error .mustBeZero, .error .mustBeZero, .error .mustBeZero, .error .mustBeZero, .error .mustBeZero,
        .error .mustBeZero, .error .mustBeZero, .error .mustBeZero, .error .mustBeZero, .error .mustBeZero,
        .error .mustBeZero, .error .mustBeZero] ∧
      (asking 0x40000000#32).pending = [.command 0x40000000#32 DataPort.still0] := by decide +kernel

theorem witness_StepRunsDecodedCommand :
    (asking 0x20000000#32).pending = [.command 0x20000000#32 DataPort.still0] ∧
      decode 0x20000000#32 = .ok .crcInit := by decide +kernel

/-- A read that is refused and one that is not. -/
theorem witness_HostReadGivesValueOrRefusal :
    (State.reset.withPending [.read .res]).pending = [.read .res] ∧ State.reset.res = none ∧
      (State.reset.withPending [.read (.prHash 2)]).pending = [.read (.prHash 2)] ∧
      (State.reset.withPending [.read .cur]).pending = [.read .cur] := by decide +kernel

theorem witness_ResetEventSetsResetValues :
    ((holding 8 0 3).withPending [.reset, .read .cur]).pending = [.reset, .read .cur] := by decide +kernel

theorem witness_AfterResetOnlyInitsRun :
    State.reset.drive moving = { State.reset with port := moving, pending := [], readOut := none } ∧
      (∀ i < (0#10).toNat, (State.reset.drive moving).port.moving.getLsbD i = false) ∧
      State.reset = { State.reset with port := DataPort.still0, pending := [], readOut := none } ∧
      ∀ i < (1023#10).toNat, State.reset.port.moving.getLsbD i = false := by decide +kernel

theorem witness_RefusedRunShowsNothing : refusal (runFrom [.read .res]) = some .noValue := by decide +kernel

theorem witness_InstancesAreIndependent :
    ∃ sys', System.stepAt 1 [State.reset, asking 0x20000000#32] = some (.next sys') := ⟨_, rfl⟩

/-- The longest and the empty BitString, and for length 1022 a second port that differs in wire 1022. -/
theorem witness_RdInitLatchesThePort :
    (∀ i < (1023#10).toNat, State.reset.port.moving.getLsbD i = false) ∧
      (∀ i < (0#10).toNat, (State.reset.drive moving).port.moving.getLsbD i = false) ∧
      ∀ i < (1022#10).toNat,
        (BitVec.ofNat 1023 (2 ^ 1022)).getLsbD i = State.reset.port.level.getLsbD i ∧
          (BitVec.ofNat 1023 (2 ^ 1022)).getLsbD i = State.reset.port.moving.getLsbD i := by decide +kernel

theorem witness_RdInitRefusesMovingPort :
    (0 < (1#10).toNat ∧ (State.reset.drive moving).port.moving.getLsbD 0 = true) ∧
      1022 < (1023#10).toNat ∧ (State.reset.drive moving).port.moving.getLsbD 1022 = true := by decide +kernel

theorem witness_WaitingChangesNothing : (holding 8 5 0).pending = [] := by decide +kernel

theorem witness_RdUintReadsBigEndian :
    (holding 1023 5 991).readable 5 1023 ∧ 1 ≤ (32#6).toNat ∧ (32#6).toNat ≤ 32 ∧
      (holding 1023 5 991).cur.toNat + (32#6).toNat ≤ (1023#10).toNat ∧
      (holding 1 1 0).readable 1 1 ∧ 1 ≤ (1#6).toNat ∧ (1#6).toNat ≤ 32 ∧
      (holding 1 1 0).cur.toNat + (1#6).toNat ≤ (1#10).toNat := by decide +kernel

theorem witness_RdBufReadsBytes :
    (holding 1023 5 7).readable 5 1023 ∧ 1 ≤ (127#7).toNat ∧
      (holding 1023 5 7).cur.toNat + 8 * (127#7).toNat ≤ (1023#10).toNat ∧
      (holding 8 5 0).readable 5 8 ∧ 1 ≤ (1#7).toNat ∧ (holding 8 5 0).cur.toNat + 8 * (1#7).toNat ≤ (8#10).toNat := by
  decide +kernel

theorem witness_BoundsFailureIsReported :
    (holding 1023 5 1023).readable 5 1023 ∧ (holding 1023 5 1023).cur.toNat ≤ (1023#10).toNat ∧
      (1 ≤ (1#6).toNat ∧ (1#6).toNat ≤ 32 ∧ (1023#10).toNat - (holding 1023 5 1023).cur.toNat < (1#6).toNat) ∧
      (1 ≤ (1#7).toNat ∧ (1023#10).toNat - (holding 1023 5 1023).cur.toNat < 8 * (1#7).toNat) ∧
      (holding 31 5 0).readable 5 31 ∧ (holding 31 5 0).cur.toNat ≤ (31#10).toNat ∧
      (31#10).toNat - (holding 31 5 0).cur.toNat < (32#6).toNat ∧
      (31#10).toNat - (holding 31 5 0).cur.toNat < 8 * (127#7).toNat := by decide +kernel

theorem witness_BrReadPreconditions :
    rdValid State.reset.rdStatus = false ∧ (faulted 0 0 0 1 0).latched 0 0 ∧
      rdFault (faulted 0 0 0 1 0).rdStatus = true := by decide +kernel

theorem witness_InadmissibleOperandsRefused :
    (holding 8 5 0).readable 5 8 ∧ (faulted 8 5 0 9 8).latched 5 8 ∧ ((0#6).toNat = 0 ∨ 33 ≤ (0#6).toNat) ∧
      ((33#6).toNat = 0 ∨ 33 ≤ (33#6).toNat) ∧ ((63#6).toNat = 0 ∨ 33 ≤ (63#6).toNat) ∧ 5 ≤ (5#3).toNat ∧
      5 ≤ (7#3).toNat := by decide +kernel

theorem witness_RdRemCountsRemaining :
    rdValid State.reset.rdStatus = false ∧ (faulted 8 5 8 1 0).latched 5 8 ∧
      (faulted 8 5 8 1 0).cur.toNat ≤ (8#10).toNat ∧ rdFault (faulted 8 5 8 1 0).rdStatus = true ∧
      (holding 8 5 8).latched 5 8 ∧ (holding 8 5 8).cur.toNat ≤ (8#10).toNat ∧
      rdFault (holding 8 5 8).rdStatus = false := by decide +kernel

theorem witness_RdLenGivesLength :
    rdValid State.reset.rdStatus = false ∧ (faulted 1023 5 0 1 0).latched 5 1023 := by decide +kernel

theorem witness_CursorNeverPassesEnd :
    (holding 8 5 7).bsLen = some 8#10 ∧ (holding 8 5 7).cur.toNat ≤ (8#10).toNat ∧
      ∃ t, step ((holding 8 5 7).withPending [.command 0x01000001#32 DataPort.still0]) = .next t :=
  ⟨by decide +kernel, by decide +kernel, _, rfl⟩

theorem witness_CursorMovesOnlyByReads :
    (∃ t, exec (.rdUint 1) (holding 8 5 7) = .next t ∧ t.cur ≠ (holding 8 5 7).cur) ∧
      ∃ t, exec (.rdBuf 1) (holding 8 5 0) = .next t ∧ t.cur ≠ (holding 8 5 0).cur :=
  ⟨⟨_, rfl, by decide +kernel⟩, _, rfl, by decide +kernel⟩

theorem witness_ConsecutiveReadsConcatenate :
    (32#6).toNat = (31#6).toNat + (1#6).toNat ∧ (32#6).toNat ≤ 32 ∧
      ∃ t u r1 r2, exec (.rdUint 31) (holding 32 5 0) = .next t ∧ t.res = some r1 ∧
        exec (.rdUint 1) t = .next u ∧ u.res = some r2 :=
  ⟨by decide, by decide, _, _, _, _, rfl, rfl, rfl, rfl⟩

/-- A buffer read that succeeds, one that fails, and the last byte read of each. -/
theorem witness_BufferReadEqualsByteReads :
    (∃ t, exec (.rdBuf 1) (holding 8 5 0) = .next t ∧ t.obuf = some [0xA0#8]) ∧ (holding 1023 5 0).readable 5 1023 ∧
      1 ≤ (127#7).toNat ∧ (holding 1023 5 0).cur.toNat + 8 * ((127#7).toNat - 1) ≤ 1023 ∧
      ∃ t, exec (.rdBuf 1) (holding 7 5 0) = .next t ∧ t.obuf = none :=
  ⟨next_of_shows (f := State.obuf) (by decide +kernel), by decide +kernel, by decide, by decide,
    next_of_shows (f := State.obuf) (by decide +kernel)⟩

theorem witness_MixedWidthsSeeSameBits : 1 ≤ 1 ∧ 1 ≤ 31 ∧ 1 + 31 ≤ 32 ∧ 0 < 1 ∧ 126 < 127 := by decide

theorem witness_HostPackingReadsBack :
    (1022 < 1023 ∧ 1022 / 8 < (List.replicate 128 0xA5#8).length) ∧ (0 < 1023 ∧ 0 / 8 < [0xA5#8].length) ∧ 127 ≤ 127 ∧
      127 ≤ (List.replicate 128 0xA5#8).length := by decide +kernel

theorem witness_FaultLastsUntilRdInit :
    rdFault (faulted 0 0 0 1 0).rdStatus = true ∧
      (∃ t, exec .rdLen (faulted 0 0 0 1 0) = .next t ∧ t.rdStatus = 0x07#8) ∧
      (∃ t, exec (.rdInit 8) (faulted 0 0 0 1 0) = .next t ∧ t.rdStatus = 0x01#8) ∧
      ∃ t, exec (.prDecode 0) (holding 8 5 0) = .next t ∧ t.rdStatus = 0x01#8 :=
  ⟨by decide, next_of_shows (f := State.rdStatus) (by decide +kernel),
    next_of_shows (f := State.rdStatus) (by decide +kernel), next_of_shows (f := State.rdStatus) (by decide +kernel)⟩

theorem witness_OnlyNamedCommandsWrite : ∃ t, exec (.rdUint 1) (holding 8 5 0) = .next t := ⟨_, rfl⟩

theorem witness_LevelMaskLaws : (1#8 ≠ 0#8 ∧ level 1#8 ≤ 3) ∧ (7#8 ≠ 0#8 ∧ level 7#8 ≤ 3) ∧ 8#8 ≠ 0#8 ∧ 255#8 ≠ 0#8 := by
  decide

theorem witness_LmLevelIsHighestSetBit : (0#8 : Byte) = 0#8 ∧ (1#8 : Byte) ≠ 0#8 ∧ (255#8 : Byte) ≠ 0#8 := by decide

theorem witness_CrcUpdateTakesOneByte :
    State.reset.crcValid = false ∧ (summing 5).crcValid = true ∧ (summing 5).crcReg = some 5 := by decide

theorem witness_CrcFinalLittleEndian :
    State.reset.crcValid = false ∧ (summing 5).crcValid = true ∧ (summing 5).crcReg = some 5 := by decide

/-- The checksum of one byte, with a command of another unit in the middle of it. -/
theorem witness_CrcStreamComputesCrc32c :
    [Instr.crcInit, .lmLevel 5, .crcUpdate 0x31, .crcFinal].filter Instr.isCrc =
        .crcInit :: ([0x31#8].map Instr.crcUpdate ++ [.crcFinal]) ∧
      ∃ t, runInstrs [.crcInit, .lmLevel 5, .crcUpdate 0x31, .crcFinal] State.reset = .next t :=
  ⟨by decide, _, rfl⟩

theorem witness_CrcUnitIsStandalone :
    Instr.crcFinal.isCrc = true ∧ (holding 8 5 0).crcReg = State.reset.crcReg ∧
      (holding 8 5 0).crcValid = State.reset.crcValid ∧ (holding 8 5 0).crcOut = State.reset.crcOut ∧
      (Instr.rdUint 8).isCrc = false := by decide

theorem witness_PrDecodePreconditions :
    rdValid State.reset.rdStatus = false ∧ (faulted 8 5 0 9 8).latched 5 8 ∧ 5 ≤ (5#3).toNat ∧ 5 ≤ (7#3).toNat ∧
      (0#3).toNat ≤ 4 ∧ (4#3).toNat ≤ 4 := by decide +kernel

theorem witness_PrDecodeIgnoresReader : rdValid 0x07#8 = rdValid (holding 8 5 0).rdStatus := by decide

/-- The type byte at the shortest length that has one, and at 7 bits. -/
theorem witness_PrDecodeTypeGate :
    ((holding 7 0 0).latched 0 7 ∧ (7#10).toNat < 8) ∧ ((holding 0 0 0).latched 0 0 ∧ (0#10).toNat < 8) ∧
      (holding 8 0 0).latched 0 8 ∧ (4#3).toNat ≤ 4 ∧ 8 ≤ (8#10).toNat ∧ uintAt 0 0 8 ≠ 1 := by decide +kernel

theorem witness_PrDecodeRefsGate :
    (holding 280 0x80 0).latched 0x80 280 ∧ (1#3).toNat ≤ 4 ∧ (1#3).toNat ≠ 0 ∧ 8 ≤ (280#10).toNat ∧
      uintAt 0x80#1023 0 8 = 1 ∧ (holding 8 0x80 0).latched 0x80 8 ∧ (4#3).toNat ≤ 4 ∧ (4#3).toNat ≠ 0 ∧
      8 ≤ (8#10).toNat := by decide +kernel

/-- Lengths 8 and 15 for the first clause; masks 0, 8 and 255 at length 16 for the second; 1 and 7 for the third. -/
theorem witness_PrDecodeMaskGate :
    ((holding 8 0x80 0).latched 0x80 8 ∧ (8#10).toNat ≠ 280 ∧ uintAt 0x80#1023 0 8 = 1 ∧ (8#10).toNat ≤ 15) ∧
      ((holding 15 0x80 0).latched 0x80 15 ∧ (15#10).toNat ≤ 15) ∧
      ((holding 16 0x80 0).latched 0x80 16 ∧ 16 ≤ (16#10).toNat ∧ (0#8).toNat = uintAt 0x80#1023 8 8) ∧
      ((holding 16 0x1080 0).latched 0x1080 16 ∧ uintAt 0x1080#1023 0 8 = 1 ∧ (8#8).toNat = uintAt 0x1080#1023 8 8) ∧
      (uintAt 0xFF80#1023 0 8 = 1 ∧ (255#8).toNat = uintAt 0xFF80#1023 8 8) ∧
      ((holding 16 0x8080 0).latched 0x8080 16 ∧ uintAt 0x8080#1023 0 8 = 1 ∧ (1#8).toNat = uintAt 0x8080#1023 8 8) ∧
      (holding 16 0xE080 0).latched 0xE080 16 ∧ uintAt 0xE080#1023 0 8 = 1 ∧
      (7#8).toNat = uintAt 0xE080#1023 8 8 := by decide +kernel

/-- One bit short and one bit long of mask 1's size, mask 7 at 16 bits, and mask 1 at its size. -/
theorem witness_PrDecodeSizeGate :
    ((holding 287 0x8080 0).latched 0x8080 287 ∧ 16 ≤ (287#10).toNat ∧ (287#10).toNat ≠ 280 ∧
        uintAt 0x8080#1023 0 8 = 1 ∧ (1#8).toNat = uintAt 0x8080#1023 8 8 ∧
        (287#10).toNat ≠ 16 + 272 * hashCount 1#8) ∧
      ((holding 289 0x8080 0).latched 0x8080 289 ∧ (289#10).toNat ≠ 16 + 272 * hashCount 1#8) ∧
      (holding 16 0xE080 0).latched 0xE080 16 ∧ uintAt 0xE080#1023 0 8 = 1 ∧
      (7#8).toNat = uintAt 0xE080#1023 8 8 ∧ (16#10).toNat ≠ 16 + 272 * hashCount 7#8 ∧
      (holding 288 0x8080 0).latched 0x8080 288 ∧ (288#10).toNat = 16 + 272 * hashCount 1#8 := by decide +kernel

/-- Each mask at the length its size check admits (P14 to P17), and masks 2 and 5 at another. -/
theorem witness_PrDecodeGappedMasksNeverDecode :
    ((holding 288 0x4080 0).latched 0x4080 288 ∧ uintAt 0x4080#1023 0 8 = 1 ∧ (2#8).toNat = uintAt 0x4080#1023 8 8) ∧
      ((holding 288 0x2080 0).latched 0x2080 288 ∧ (4#8).toNat = uintAt 0x2080#1023 8 8) ∧
      ((holding 560 0xA080 0).latched 0xA080 560 ∧ (5#8).toNat = uintAt 0xA080#1023 8 8) ∧
      ((holding 560 0x6080 0).latched 0x6080 560 ∧ (6#8).toNat = uintAt 0x6080#1023 8 8) ∧
      (holding 560 0x4080 0).latched 0x4080 560 ∧ (holding 16 0xA080 0).latched 0xA080 16 := by decide +kernel

theorem witness_PrDecodeNormalLayout :
    ((holding 288 0x8080 0).latched 0x8080 288 ∧ (288#10).toNat = 16 + 272 * 1 ∧ uintAt 0x8080#1023 0 8 = 1 ∧
        (1#8).toNat = uintAt 0x8080#1023 8 8) ∧
      ((holding 560 0xC080 0).latched 0xC080 560 ∧ (560#10).toNat = 16 + 272 * 2 ∧ uintAt 0xC080#1023 0 8 = 1 ∧
        (3#8).toNat = uintAt 0xC080#1023 8 8) ∧
      (holding 832 0xE080 0).latched 0xE080 832 ∧ (832#10).toNat = 16 + 272 * 3 ∧ uintAt 0xE080#1023 0 8 = 1 ∧
        (7#8).toNat = uintAt 0xE080#1023 8 8 := by decide +kernel

theorem witness_PrDecodeLegacyLayout :
    (holding 280 0x80 0).latched 0x80 280 ∧ uintAt 0x80#1023 0 8 = 1 := by decide +kernel

/-- A decode that succeeds and one that fails. -/
theorem witness_PrDecodeSucceedsExactly :
    ((holding 288 0x8080 0).latched 0x8080 288 ∧ (holding 8 0 0).latched 0 8) ∧
      (∃ t, exec (.prDecode 0) (holding 288 0x8080 0) = .next t ∧ prCode t.prStatus = 0#3) ∧
      ∃ t, exec (.prDecode 0) (holding 8 0 0) = .next t ∧ prCode t.prStatus = 2#3 :=
  ⟨by decide +kernel, next_of_shows (f := fun t => prCode t.prStatus) (by decide +kernel),
    next_of_shows (f := fun t => prCode t.prStatus) (by decide +kernel)⟩

theorem witness_PrDecodeLeavesNoPartialResult :
    (∃ t, exec (.prDecode 0) (holding 288 0x8080 0) = .next t ∧ prCode t.prStatus = 0#3) ∧
      ∃ t, exec (.prDecode 0) (holding 8 0 0) = .next t ∧ prCode t.prStatus = 2#3 :=
  witness_PrDecodeSucceedsExactly.2

/-- A PR.DECODE, and a second state over the same BitString: faulted, its cursor elsewhere. -/
theorem witness_PrDecodeIsRepeatable :
    (∃ t, exec (.prDecode 1) (holding 280 0x80 0) = .next t ∧ t.prStatus = 0x07#8) ∧
      rdValid (faulted 280 0x80 279 2 1).rdStatus = true ∧
      (faulted 280 0x80 279 2 1).bs = (holding 280 0x80 0).bs ∧
      (faulted 280 0x80 279 2 1).bsLen = (holding 280 0x80 0).bsLen :=
  ⟨next_of_shows (f := State.prStatus) (by decide +kernel), by decide +kernel⟩

theorem witness_PrDecodeReadsEveryBit :
    (decodeCell 0x80#1023 280 0).toOption.map (fun c => c.endCur) = some 280 ∧
      (decodeCell 0xE080#1023 832 0).toOption.map (fun c => c.endCur) = some 832 := by decide +kernel

/-- OutOfBounds at each of the three places. -/
theorem witness_PrDecodeOutOfBoundsPlaces :
    ((holding 7 0 0).latched 0 7 ∧ (holding 15 0x80 0).latched 0x80 15 ∧ (holding 560 0xA080 0).latched 0xA080 560) ∧
      (∃ t, exec (.prDecode 0) (holding 7 0 0) = .next t ∧ prCode t.prStatus = 1#3) ∧
      (∃ t, exec (.prDecode 0) (holding 15 0x80 0) = .next t ∧ prCode t.prStatus = 1#3) ∧
      ∃ t, exec (.prDecode 0) (holding 560 0xA080 0) = .next t ∧ prCode t.prStatus = 1#3 :=
  ⟨by decide +kernel, next_of_shows (f := fun t => prCode t.prStatus) (by decide +kernel),
    next_of_shows (f := fun t => prCode t.prStatus) (by decide +kernel),
    next_of_shows (f := fun t => prCode t.prStatus) (by decide +kernel)⟩

/-- States that meet the invariant: one of each shape of the BR unit, and a step from one. -/
theorem witness_StepKeepsInvariant :
    (State.reset.inv = true ∧ (holding 8 5 8).inv = true ∧ (faulted 8 5 8 1 0).inv = true ∧ (summing 5).inv = true) ∧
      ((holding 8 5 7).withPending [.command 0x01000001#32 DataPort.still0]).inv = true ∧
      ∃ t, step ((holding 8 5 7).withPending [.command 0x01000001#32 DataPort.still0]) = .next t ∧ t.cur = 8#10 :=
  ⟨by decide +kernel, by decide +kernel, next_of_shows (f := State.cur) (by decide +kernel)⟩

theorem witness_NoStepFaults : (asking 0x30000005#32).inv = true := by decide +kernel

theorem witness_CommandsCompleteExactly : (holding 8 5 0).inv = true := by decide +kernel

end Sys2Proof.Tests
end

section
/-! The reset values of the state (spec/10_state.md, R41). -/

namespace Sys2Proof.Machine

@[simp] theorem State.reset_prHash : State.reset.prHash = Vector.replicate 3 none := rfl

@[simp] theorem State.reset_prDepth : State.reset.prDepth = Vector.replicate 3 none := rfl

/-- Settles O10: every row of R41's table but the last is a field `State.reset` gives literally; the entries of
`PR_HASH` and `PR_DEPTH` are those of a vector of `⊥` only. -/
theorem resetValues : Obligations.ResetValues := by
  unfold Obligations.ResetValues
  have hash (i : Fin 3) : State.reset.prHash[i] = none := by simp
  have depth (i : Fin 3) : State.reset.prDepth[i] = none := by simp
  exact ⟨rfl, rfl, rfl, rfl, rfl, rfl, rfl, rfl, rfl, rfl, rfl, rfl, rfl, rfl, rfl, rfl, rfl, hash, depth⟩

end Sys2Proof.Machine
end

section
/-! The bits of a read (spec/20_memory.md, R53 to R58): which bit of the BitString stands where in the integer and in the
byte a read returns, and how adjacent reads compose. -/

namespace Sys2Proof.Machine

/-- Bit `j` of an integer read of `n` bits is the `j`-th bit from the end of the range read (R53). -/
theorem testBit_uintAt (bs : Bits) (c n j : Nat) :
    (uintAt bs c n).testBit j = (decide (j < n) && bs.getLsbD (c + (n - 1 - j))) := by
  induction n generalizing j with
  | zero => simp
  | succ n ih =>
    rw [uintAt_succ, bitAt, ← Nat.bit_val]
    cases j with
    | zero => simp
    | succ j =>
      rw [Nat.testBit_bit_succ, ih]
      simp [Nat.sub_sub, Nat.add_comm]

/-- Two adjacent reads concatenate (R58). -/
theorem uintAt_add (bs : Bits) (c a b : Nat) :
    uintAt bs c (a + b) = uintAt bs c a * 2 ^ b + uintAt bs (c + a) b := by
  induction b with
  | zero => simp
  | succ b ih =>
    rw [← Nat.add_assoc, uintAt_succ, ih, uintAt_succ, Nat.add_assoc c a b, pow_succ]
    ring

/-- No bit of a byte read is lost in its eight bits (R54). -/
theorem byteAt_toNat_eq_uintAt (bs : Bits) (c j : Nat) : (byteAt bs c j).toNat = uintAt bs (c + 8 * j) 8 :=
  byteAt_toNat bs (c + 8 * j)

/-- The lowest offset of a byte read is bit 7 (R54). -/
theorem byteAt_getLsbD (bs : Bits) (c j : Nat) {m : Nat} (hm : m < 8) :
    (byteAt bs c j).getLsbD m = bs.getLsbD (c + 8 * j + (7 - m)) := by
  rw [← BitVec.testBit_toNat, byteAt_toNat_eq_uintAt, testBit_uintAt]
  simp [hm]

@[simp] theorem bytesAt_length (bs : Bits) (c k : Nat) : (bytesAt bs c k).length = k := by
  simp [bytesAt]

theorem bytesAt_getD (bs : Bits) (c : Nat) {j k : Nat} (h : j < k) (d : Byte) :
    (bytesAt bs c k).getD j d = byteAt bs c j := by
  simp [bytesAt, h]

/-- Settles O28: adjacent reads concatenate (`uintAt_add`), a byte of a buffer is an 8-bit read, and the last clause is
the first at widths 8 and 8. -/
theorem mixedWidthsSeeSameBits : Obligations.MixedWidthsSeeSameBits := by
  unfold Obligations.MixedWidthsSeeSameBits
  intro bs c
  refine ⟨fun a b _ _ _ => uintAt_add bs c a b, fun k j hj => ?_, uintAt_add bs c 8 8⟩
  rw [bytesAt_getD bs c hj, byteAt_toNat_eq_uintAt]

end Sys2Proof.Machine
end

section
/-! The host's byte view of the data port (spec/20_memory.md, R55). -/

namespace Sys2Proof.Machine

/-- A number put together from a list of bits, lowest first, has these bits. -/
theorem testBit_foldr_bits (f : Nat → Bool) (l : List Nat) (i : Nat) :
    (l.foldr (fun x acc => (f x).toNat + 2 * acc) 0).testBit i = (l.map f).getD i false := by
  induction l generalizing i with
  | nil => simp
  | cons x l ih =>
    rw [List.foldr_cons, Nat.add_comm, ← Nat.bit_val]
    cases i with
    | zero => simp
    | succ i =>
      rw [Nat.testBit_bit_succ, ih]
      simp

/-- Wire `i` of the packed port is the host's bit for it (R55). -/
theorem portOfBytes_getLsbD (b : List Byte) {i : Nat} (h : i < 1023) :
    (portOfBytes b).getLsbD i = portBit b i := by
  rw [portOfBytes, BitVec.getLsbD_ofNat, testBit_foldr_bits]
  simp [h]

/-- The eight wires of byte `j`, read as a byte, are the host's byte `j` (R55). -/
theorem byteAt_portOfBytes (b : List Byte) {j : Nat} (h : j < 127) : byteAt (portOfBytes b) 0 j = b.getD j 0#8 := by
  refine BitVec.eq_of_getLsbD_eq fun m hm => ?_
  have hdiv : (0 + 8 * j + (7 - m)) / 8 = j := by omega
  have hmod : 7 - (0 + 8 * j + (7 - m)) % 8 = m := by omega
  rw [byteAt_getLsbD _ _ _ hm, portOfBytes_getLsbD b (by omega), portBit, hdiv, hmod]

/-- Settles O29: each wire is the host's bit for it, and a buffer read from offset 0 agrees with the host's bytes place by
place. -/
theorem hostPackingReadsBack : Obligations.HostPackingReadsBack := by
  unfold Obligations.HostPackingReadsBack
  intro b
  refine ⟨fun i hi _ => portOfBytes_getLsbD b hi, fun k hk hlen => ?_⟩
  refine List.ext_getElem (by simp [hlen]) fun j hj hj' => ?_
  have hjk : j < k := by simpa using hj
  have hjb : j < b.length := by omega
  calc (bytesAt (portOfBytes b) 0 k)[j]
      = byteAt (portOfBytes b) 0 j := by simp [bytesAt]
    _ = b.getD j 0#8 := byteAt_portOfBytes b (by omega)
    _ = (b.take k)[j] := by simp [hjb]

end Sys2Proof.Machine
end

section
/-! The two reads of the BR unit where all their bits remain (spec/20_memory.md, R53 and R54; R102, R103). -/

namespace Sys2Proof.Machine

/-- RD.UINT with an admitted width that fits completes (R102). -/
theorem execRdUint_of_fits {wid : BitVec 6} {s : State} {bs : Bits} {len : BitVec 10} (h : s.readable bs len)
    (hw : widthAdmitted wid = true) (hfit : s.cur.toNat + wid.toNat ≤ len.toNat) :
    execRdUint wid s =
      .next ((s.setRes (some (zext32 (uintAt bs s.cur.toNat wid.toNat)))).advance wid.toNat) := by
  have hrem : ¬ remaining len s.cur < wid.toNat := by
    rw [remaining]
    omega
  simp [execRdUint, withLiveReader_readable h, hw, hrem]

/-- RD.BUF of an admitted number of bytes that fit completes (R103). -/
theorem execRdBuf_of_fits {nby : BitVec 7} {s : State} {bs : Bits} {len : BitVec 10} (h : s.readable bs len)
    (hn : bytesAdmitted nby = true) (hfit : s.cur.toNat + bufferBits nby ≤ len.toNat) :
    execRdBuf nby s = .next ((s.setObuf (bytesAt bs s.cur.toNat nby.toNat)).advance (bufferBits nby)) := by
  have hrem : ¬ remaining len s.cur < bufferBits nby := by
    rw [remaining]
    omega
  simp [execRdBuf, withLiveReader_readable h, hn, hrem]

/-- Within a length the cursor does not wrap (R23). -/
theorem State.advance_cur_toNat (s : State) {w : Nat} {len : BitVec 10} (h : s.cur.toNat + w ≤ len.toNat) :
    (s.advance w).cur.toNat = s.cur.toNat + w := by
  have := len.isLt
  simp only [State.advance_cur, BitVec.toNat_add, BitVec.toNat_ofNat]
  omega

/-- `RES` holds the integer of a read of at most 32 bits, zero-extended (R10, R53). -/
theorem zext32_uintAt_getLsbD (bs : Bits) (c j : Nat) {n : Nat} (hn : n ≤ 32) :
    (zext32 (uintAt bs c n)).getLsbD j = (decide (j < n) && bs.getLsbD (c + (n - 1 - j))) := by
  rw [zext32, BitVec.getLsbD_ofNat, testBit_uintAt]
  by_cases hj : j < n
  · simp [hj, hj.trans_le hn]
  · simp [hj]

/-- Settles O17: the read completes (`execRdUint_of_fits`), and the bits of its result are those of
`zext32_uintAt_getLsbD`, of which bit `wid - 1 - i` is the bit at offset `cur + i`. -/
theorem rdUintReadsBigEndian : Obligations.RdUintReadsBigEndian := by
  unfold Obligations.RdUintReadsBigEndian
  intro wid s bs len hread hmin hmax hfit
  refine ⟨_, _, execRdUint_of_fits hread (widthAdmitted_iff.mpr ⟨hmin, hmax⟩) hfit, rfl, fun i hi => ?_, fun j hj => ?_,
    State.advance_cur_toNat _ hfit, rfl⟩
  · have hlt : wid.toNat - 1 - i < wid.toNat := by omega
    have hback : wid.toNat - 1 - (wid.toNat - 1 - i) = i := by omega
    rw [zext32_uintAt_getLsbD bs _ _ hmax, hback]
    simp [hlt]
  · rw [zext32_uintAt_getLsbD bs _ _ hmax]
    simp [hj]

/-- Settles O18: the read completes (`execRdBuf_of_fits`), bit `7 - k` of each byte is the bit at offset `k` of its eight
(`byteAt_getLsbD`), and the buffer's length is `NBY` itself. -/
theorem rdBufReadsBytes : Obligations.RdBufReadsBytes := by
  unfold Obligations.RdBufReadsBytes
  intro nby s bs len hread hmin hfit
  refine ⟨_, bytesAt bs s.cur.toNat nby.toNat, execRdBuf_of_fits hread (bytesAdmitted_iff.mpr hmin) hfit, rfl,
    bytesAt_length .., fun j hj k hk => ?_, State.advance_cur_toNat _ hfit, ?_⟩
  · have hback : 7 - (7 - k) = k := by omega
    rw [bytesAt_getD bs _ hj, byteAt_getLsbD bs _ _ (by omega), hback]
  · simp [State.setObuf, State.advance]

end Sys2Proof.Machine
end

section
/-! The command map read both ways (spec/30_encoding.md, R73 and R76): which words decode to a given command. -/

namespace Sys2Proof

/-- The row of a command is a row of the map (R76). -/
theorem rowOf_mem_commandMap (i : Instr) : rowOf i ∈ commandMap := by
  cases i <;> simp [rowOf, commandMap]

/-- Each row of the map reads every word as a command of that row (R76). -/
theorem rowOf_read {r : Row} (hr : r ∈ commandMap) (c : Word) : rowOf (r.read c) = r := by
  simp only [commandMap, List.mem_cons, List.not_mem_nil, or_false] at hr
  rcases hr with rfl | rfl | rfl | rfl | rfl | rfl | rfl | rfl | rfl | rfl | rfl | rfl <;> rfl

/-- A word decodes to a command exactly when `C & mask = match` in the command's row (R76) and the command's operands are
the fields that row reads in the word (R73). -/
theorem decode_ok_iff {c : Word} {i : Instr} :
    decode c = .ok i ↔ c &&& (rowOf i).mask = (rowOf i).pat ∧ i = (rowOf i).read c := by
  constructor
  · intro h
    obtain ⟨r, hr, hit, rfl⟩ := row_of_decode h
    rw [rowOf_read hr]
    exact ⟨beq_iff_eq.mp hit, rfl⟩
  · rintro ⟨hit, hread⟩
    rw [hread]
    exact decode_of_hits (rowOf_mem_commandMap i) (beq_iff_eq.mpr hit)

/-- Settles O3: each row is `decode_ok_iff` at the row's command, whose constructor is injective in its operands. -/
theorem commandMapExact : Obligations.CommandMapExact := by
  unfold Obligations.CommandMapExact
  intro c
  exact ⟨fun _ => decode_ok_iff.trans (and_congr_right' (Instr.rdInit.injEq ..).to_iff),
    fun _ => decode_ok_iff.trans (and_congr_right' (Instr.rdUint.injEq ..).to_iff),
    fun _ => decode_ok_iff.trans (and_congr_right' (Instr.rdBuf.injEq ..).to_iff),
    decode_ok_iff.trans (and_iff_left rfl),
    decode_ok_iff.trans (and_iff_left rfl),
    fun _ => decode_ok_iff.trans (and_congr_right' (Instr.lmLevel.injEq ..).to_iff),
    fun _ _ => decode_ok_iff.trans (and_congr_right' (Instr.lmApply.injEq ..).to_iff),
    fun _ => decode_ok_iff.trans (and_congr_right' (Instr.lmHashcount.injEq ..).to_iff),
    decode_ok_iff.trans (and_iff_left rfl),
    fun _ => decode_ok_iff.trans (and_congr_right' (Instr.crcUpdate.injEq ..).to_iff),
    decode_ok_iff.trans (and_iff_left rfl),
    fun _ => decode_ok_iff.trans (and_congr_right' (Instr.prDecode.injEq ..).to_iff)⟩

end Sys2Proof
end

section
/-! Operand values the word can hold but the block does not admit (spec/30_encoding.md, R75): the refusals of RD.UINT,
RD.BUF and PR.DECODE where every earlier precondition holds. -/

namespace Sys2Proof.Machine

/-- RD.UINT refuses a width that is not admitted (R75, R102). -/
theorem execRdUint_of_not_admitted {wid : BitVec 6} {s : State} {bs : Bits} {len : BitVec 10} (h : s.readable bs len)
    (hw : ¬ widthAdmitted wid = true) : execRdUint wid s = .refused .width := by
  simp [execRdUint, withLiveReader_readable h, hw]

/-- RD.BUF refuses a number of bytes that is not admitted (R75, R103). -/
theorem execRdBuf_of_not_admitted {nby : BitVec 7} {s : State} {bs : Bits} {len : BitVec 10} (h : s.readable bs len)
    (hn : ¬ bytesAdmitted nby = true) : execRdBuf nby s = .refused .width := by
  simp [execRdBuf, withLiveReader_readable h, hn]

/-- PR.DECODE refuses a reference count that is not admitted, whether or not the reader is faulted (R75, R171). -/
theorem execPrDecode_of_not_admitted {refs : BitVec 3} {s : State} {bs : Bits} {len : BitVec 10} (h : s.latched bs len)
    (hr : ¬ refsAdmitted refs = true) : execPrDecode refs s = .refused .refsRange := by
  simp [execPrDecode, withBitString_latched h, hr]

/-- Settles O21: none of the three operands is admitted, so each command refuses it. -/
theorem inadmissibleOperandsRefused : Obligations.InadmissibleOperandsRefused := by
  unfold Obligations.InadmissibleOperandsRefused
  intro s bs len
  refine ⟨fun h wid hwid => execRdUint_of_not_admitted h ?_, fun h => execRdBuf_of_not_admitted h (by decide),
    fun h refs hrefs => execPrDecode_of_not_admitted h ?_⟩
  · rw [widthAdmitted_iff]
    omega
  · rw [refsAdmitted_iff]
    omega

end Sys2Proof.Machine
end

section
/-! What one step of the block can do, and what each command can do to the cursor (spec/10_state.md, R23;
spec/40_bitreader.md, R107 and R108). -/

namespace Sys2Proof.Machine

/-- A step that answers a next state waits, resets, serves a register read, or runs one decoded command to its end
(R66). -/
theorem step_next_cases {s t : State} (h : step s = .next t) :
    (s.pending = [] ∧ t = s) ∨
    (∃ rest, s.pending = .reset :: rest ∧ t = resetBlock (s.withPending rest)) ∨
    (∃ r rest v, s.pending = .read r :: rest ∧ (s.withPending rest).readReg r = some v ∧
      t = { s.withPending rest with readOut := some v }) ∨
    ∃ c p rest i, s.pending = .command c p :: rest ∧ decode c = .ok i ∧
      exec i ((s.withPending rest).drive p) = .next t := by
  unfold step at h
  split at h
  case h_1 hp => cases h; exact .inl ⟨hp, rfl⟩
  case h_2 rest hp => cases h; exact .inr (.inl ⟨rest, hp, rfl⟩)
  case h_3 r rest hp =>
    unfold serveRead at h
    split at h
    case h_1 v hv => cases h; exact .inr (.inr (.inl ⟨r, rest, v, hp, hv, rfl⟩))
    case h_2 => cases h
  case h_4 c p rest hp =>
    unfold issue at h
    split at h
    case h_1 i hi => exact .inr (.inr (.inr ⟨c, p, rest, i, hp, hi, h⟩))
    case h_2 => cases h

/-- The ways a command that completes can act on the cursor. -/
inductive CursorMove (i : Instr) (s t : State) : Prop
  /-- RD.INIT constructs a fresh reader (R101). -/
  | latch (len : BitVec 10) (hi : i = .rdInit len) (ht : t = s.latch len)
  /-- The cursor and the length it runs against stay. -/
  | stay (hcur : t.cur = s.cur) (hlen : t.bsLen = s.bsLen) (hvalid : rdValid t.rdStatus = rdValid s.rdStatus)
  /-- A read of `w` bits that remain puts them into its result register (R102, R103). -/
  | read (len : BitVec 10) (w : Nat) (hlen : t.bsLen = some len) (hfit : s.cur.toNat + w ≤ len.toNat)
      (hcur : t.cur.toNat = s.cur.toNat + w)
      (hi : (∃ wid, i = .rdUint wid ∧ t.res.isSome = true ∧ w = wid.toNat) ∨
        ∃ nby, i = .rdBuf nby ∧ t.obuf.isSome = true ∧ w = 8 * nby.toNat)

/-- The bits a read takes lie within the BitString, wherever the cursor stands (R106). -/
theorem cur_add_le_of_le_remaining {len cur : BitVec 10} {w : Nat} (hw : 1 ≤ w) (h : w ≤ remaining len cur) :
    cur.toNat + w ≤ len.toNat := by
  rw [remaining] at h
  omega

/-- An admitted buffer read is of at least one bit. -/
theorem one_le_bufferBits {nby : BitVec 7} (h : bytesAdmitted nby = true) : 1 ≤ bufferBits nby := by
  rw [bytesAdmitted_iff] at h
  rw [bufferBits]
  omega

theorem cursorMove_rdUint {wid : BitVec 6} {s t : State} (h : execRdUint wid s = .next t) :
    CursorMove (.rdUint wid) s t := by
  obtain ⟨bs, len, ⟨⟨-, -, hlen⟩, -⟩, hw, ⟨-, rfl⟩ | ⟨hrem, rfl⟩⟩ := execRdUint_next h
  · exact .stay rfl rfl (rdValid_rdStatusFaulted _)
  · have hfit := cur_add_le_of_le_remaining (widthAdmitted_iff.mp hw).1 hrem
    exact .read len wid.toNat hlen hfit (State.advance_cur_toNat _ hfit) (.inl ⟨wid, rfl, rfl, rfl⟩)

theorem cursorMove_rdBuf {nby : BitVec 7} {s t : State} (h : execRdBuf nby s = .next t) :
    CursorMove (.rdBuf nby) s t := by
  obtain ⟨bs, len, ⟨⟨-, -, hlen⟩, -⟩, hn, ⟨-, rfl⟩ | ⟨hrem, rfl⟩⟩ := execRdBuf_next h
  · exact .stay rfl rfl (rdValid_rdStatusFaulted _)
  · have hfit := cur_add_le_of_le_remaining (one_le_bufferBits hn) hrem
    exact .read len (bufferBits nby) hlen hfit (State.advance_cur_toNat _ hfit) (.inr ⟨nby, rfl, rfl, rfl⟩)

/-- What each command does to the cursor. -/
theorem cursorMove_of_exec {i : Instr} {s t : State} (h : exec i s = .next t) : CursorMove i s t := by
  cases i with
  | rdInit len => exact .latch len rfl (execRdInit_next h).2
  | rdUint wid => exact cursorMove_rdUint h
  | rdBuf nby => exact cursorMove_rdBuf h
  | rdRem => obtain ⟨_, _, -, rfl⟩ := execRdRem_next h; exact .stay rfl rfl rfl
  | rdLen => obtain ⟨_, _, -, rfl⟩ := execRdLen_next h; exact .stay rfl rfl rfl
  | lmLevel val => cases h; exact .stay rfl rfl rfl
  | lmApply val apn => cases h; exact .stay rfl rfl rfl
  | lmHashcount val => cases h; exact .stay rfl rfl rfl
  | crcInit => cases h; exact .stay rfl rfl rfl
  | crcUpdate byte => obtain ⟨_, -, -, rfl⟩ := execCrcUpdate_next h; exact .stay rfl rfl rfl
  | crcFinal => obtain ⟨_, -, -, rfl⟩ := execCrcFinal_next h; exact .stay rfl rfl rfl
  | prDecode refs =>
    obtain ⟨_, _, -, -, ⟨_, -, rfl⟩ | ⟨_, -, rfl⟩⟩ := execPrDecode_next h <;> exact .stay rfl rfl rfl

/-- While a BitString is latched, the cursor is within it (R23). -/
def State.cursorWithin (s : State) : Prop :=
  rdValid s.rdStatus = true → ∀ len, s.bsLen = some len → s.cur.toNat ≤ len.toNat

/-- Every command keeps the cursor within the BitString (R107). -/
theorem exec_cursorWithin {i : Instr} {s t : State} (hs : s.cursorWithin) (h : exec i s = .next t) :
    t.cursorWithin := by
  cases cursorMove_of_exec h with
  | latch len hi ht => rw [ht]; exact fun _ len' _ => Nat.zero_le len'.toNat
  | stay hcur hlen hvalid => rw [State.cursorWithin, hcur, hlen, hvalid]; exact hs
  | read len w hlen hfit hcur hi =>
    intro _ len' hlen'
    obtain rfl : len = len' := Option.some.inj (hlen.symm.trans hlen')
    omega

/-- Settles O24: a reset leaves no length, waiting and a register read touch neither the cursor nor the
length, and of the commands only a read whose bits remain moves the cursor on (`exec_cursorWithin`). -/
theorem cursorNeverPassesEnd : Obligations.CursorNeverPassesEnd := by
  unfold Obligations.CursorNeverPassesEnd
  intro s t hs h
  obtain ⟨-, rfl⟩ | ⟨rest, -, rfl⟩ | ⟨r, rest, v, -, -, rfl⟩ | ⟨c, p, rest, i, -, -, hexec⟩ := step_next_cases h
  · exact hs
  · exact fun _ _ hlen => nomatch hlen
  · exact hs
  · exact exec_cursorWithin (s := (s.withPending rest).drive p) hs hexec

/-- Settles O25: of the ways a command can act on the cursor (`CursorMove`) only a read is left. -/
theorem cursorMovesOnlyByReads : Obligations.CursorMovesOnlyByReads := by
  unfold Obligations.CursorMovesOnlyByReads
  intro i s t hinit h hmoved
  cases cursorMove_of_exec h with
  | latch len hi _ => exact absurd hi (hinit len)
  | stay hcur _ _ => exact absurd hcur hmoved
  | read _ w _ _ hcur hi =>
    obtain ⟨wid, hi, hres, rfl⟩ | ⟨nby, hi, hobuf, rfl⟩ := hi
    · exact .inl ⟨wid, hi, hres, hcur⟩
    · exact .inr ⟨nby, hi, hobuf, hcur⟩

end Sys2Proof.Machine
end

section
/-! When a read of the BR unit gives a result and when it fails, and how reads compose (spec/40_bitreader.md, R106, R109
and R110). -/

namespace Sys2Proof.Machine

/-- At most one BitString is latched. -/
theorem State.latched_unique {s : State} {bs bs' : Bits} {len len' : BitVec 10} (h : s.latched bs len)
    (h' : s.latched bs' len') : bs' = bs ∧ len' = len :=
  ⟨Option.some.inj (h'.2.1.symm.trans h.2.1), Option.some.inj (h'.2.2.symm.trans h.2.2)⟩

/-- `zext_32` keeps a number of at most 32 bits (R10). -/
theorem zext32_toNat {v : Nat} (h : v < 2 ^ 32) : (zext32 v).toNat = v := by
  rw [zext32, BitVec.toNat_ofNat, Nat.mod_eq_of_lt h]

/-- `RES` holds the integer of a read of at most 32 bits (R10, R102). -/
theorem zext32_uintAt_toNat (bs : Bits) (c : Nat) {n : Nat} (hn : n ≤ 32) :
    (zext32 (uintAt bs c n)).toNat = uintAt bs c n :=
  zext32_toNat ((uintAt_lt bs c n).trans_le (Nat.pow_le_pow_right (by decide) hn))

/-- An RD.UINT that gave a result had its bits, gave their number and advanced past them (R102). -/
theorem execRdUint_result {wid : BitVec 6} {s t : State} {r : Word} (h : execRdUint wid s = .next t)
    (hr : t.res = some r) :
    ∃ bs len, s.readable bs len ∧ t.latched bs len ∧ widthAdmitted wid = true ∧
      s.cur.toNat + wid.toNat ≤ len.toNat ∧ t.cur.toNat = s.cur.toNat + wid.toNat ∧
      r.toNat = uintAt bs s.cur.toNat wid.toNat := by
  obtain ⟨bs, len, hread, hw, ⟨-, rfl⟩ | ⟨hrem, rfl⟩⟩ := execRdUint_next h
  · cases hr
  · cases hr
    obtain ⟨hmin, hmax⟩ := widthAdmitted_iff.mp hw
    have hfit := cur_add_le_of_le_remaining hmin hrem
    exact ⟨bs, len, hread, hread.1, hw, hfit, State.advance_cur_toNat _ hfit, zext32_uintAt_toNat bs _ hmax⟩

/-- An RD.BUF that gave a buffer had its bits, and has put them into `OBUF` and advanced (R103). -/
theorem execRdBuf_result {nby : BitVec 7} {s t : State} {b : List Byte} (h : execRdBuf nby s = .next t)
    (hb : t.obuf = some b) :
    ∃ bs len, s.readable bs len ∧ s.cur.toNat + bufferBits nby ≤ len.toNat ∧
      b = bytesAt bs s.cur.toNat nby.toNat ∧ t = (s.setObuf b).advance (bufferBits nby) := by
  obtain ⟨bs, len, hread, hn, ⟨-, rfl⟩ | ⟨hrem, rfl⟩⟩ := execRdBuf_next h
  · cases hb
  · cases hb
    exact ⟨bs, len, hread, cur_add_le_of_le_remaining (one_le_bufferBits hn) hrem, rfl, rfl⟩

/-- RD.UINT with an admitted width that does not fit reports OutOfBounds (R106). -/
theorem execRdUint_of_not_fits {wid : BitVec 6} {s : State} {bs : Bits} {len : BitVec 10} (h : s.readable bs len)
    (hw : widthAdmitted wid = true) (hlt : len.toNat < s.cur.toNat + wid.toNat) :
    execRdUint wid s = .next ((s.reportOutOfBounds wid.toNat (remaining len s.cur)).setRes none) := by
  have hrem : remaining len s.cur < wid.toNat := by
    rw [widthAdmitted_iff] at hw
    rw [remaining]
    omega
  simp [execRdUint, withLiveReader_readable h, hw, hrem]

/-- RD.BUF of an admitted number of bytes that do not fit reports OutOfBounds (R106). -/
theorem execRdBuf_of_not_fits {nby : BitVec 7} {s : State} {bs : Bits} {len : BitVec 10} (h : s.readable bs len)
    (hn : bytesAdmitted nby = true) (hlt : len.toNat < s.cur.toNat + bufferBits nby) :
    execRdBuf nby s = .next (s.reportOutOfBounds (bufferBits nby) (remaining len s.cur)).clearObuf := by
  have hrem : remaining len s.cur < bufferBits nby := by
    have := one_le_bufferBits hn
    rw [remaining]
    omega
  simp [execRdBuf, withLiveReader_readable h, hn, hrem]

/-- An admitted RD.UINT fails exactly when its bits reach past the end (R106). -/
theorem execRdUint_fails_iff {wid : BitVec 6} {s : State} {bs : Bits} {len : BitVec 10} (h : s.readable bs len)
    (hw : widthAdmitted wid = true) :
    (∃ t, execRdUint wid s = .next t ∧ t.res = none) ↔ len.toNat < s.cur.toNat + wid.toNat := by
  constructor
  · rintro ⟨t, ht, hres⟩
    by_contra hfit
    rw [execRdUint_of_fits h hw (Nat.le_of_not_lt hfit)] at ht
    cases ht
    cases hres
  · exact fun hlt => ⟨_, execRdUint_of_not_fits h hw hlt, rfl⟩

/-- An admitted RD.BUF fails exactly when its bits reach past the end (R106). -/
theorem execRdBuf_fails_iff {nby : BitVec 7} {s : State} {bs : Bits} {len : BitVec 10} (h : s.readable bs len)
    (hn : bytesAdmitted nby = true) :
    (∃ t, execRdBuf nby s = .next t ∧ t.obuf = none) ↔ len.toNat < s.cur.toNat + bufferBits nby := by
  constructor
  · rintro ⟨t, ht, hobuf⟩
    by_contra hfit
    rw [execRdBuf_of_fits h hn (Nat.le_of_not_lt hfit)] at ht
    cases ht
    cases hobuf
  · exact fun hlt => ⟨_, execRdBuf_of_not_fits h hn hlt, rfl⟩

/-- Settles O26: both reads had their bits (`execRdUint_result`), so the wider read has its own (`execRdUint_of_fits`),
and the numbers of adjacent reads concatenate (`uintAt_add`). -/
theorem consecutiveReadsConcatenate : Obligations.ConsecutiveReadsConcatenate := by
  unfold Obligations.ConsecutiveReadsConcatenate
  intro a b ab s t u r1 r2 hab hmax hta hr1 hub hr2
  obtain ⟨bs, len, hread, hlatched, ha, -, hcurt, hv1⟩ := execRdUint_result hta hr1
  obtain ⟨bs', len', hread', -, -, hfitb, hcuru, hv2⟩ := execRdUint_result hub hr2
  obtain ⟨rfl, rfl⟩ := State.latched_unique hlatched hread'.1
  rw [hcurt] at hfitb hcuru hv2
  have hmin : 1 ≤ ab.toNat := by
    rw [widthAdmitted_iff] at ha
    omega
  have hfit : s.cur.toNat + ab.toNat ≤ len'.toNat := by omega
  have hcur : u.cur.toNat = s.cur.toNat + ab.toNat := by omega
  refine ⟨_, _, execRdUint_of_fits hread (widthAdmitted_iff.mpr ⟨hmin, hmax⟩) hfit, rfl, ?_,
    BitVec.eq_of_toNat_eq (hcur.trans (State.advance_cur_toNat _ hfit).symm), hcuru⟩
  rw [zext32_uintAt_toNat bs' _ hmax, hab, uintAt_add, hv1, hv2]

/-- RD.UINT 8 from `8 * j` bits on gives byte `j` of a buffer read, where its bits fit (R110). -/
theorem execRdUint_eight_advance {s : State} {bs : Bits} {len : BitVec 10} {j : Nat} (h : s.readable bs len)
    (hfit : s.cur.toNat + 8 * j + 8 ≤ len.toNat) :
    ∃ w r, execRdUint 8 (s.advance (8 * j)) = .next w ∧ w.res = some r ∧
      r.toNat = (byteAt bs s.cur.toNat j).toNat := by
  have hcur : (s.advance (8 * j)).cur.toNat = s.cur.toNat + 8 * j :=
    State.advance_cur_toNat s (Nat.le_of_add_right_le hfit)
  refine ⟨_, _, execRdUint_of_fits (s := s.advance (8 * j)) h (by decide) (by rw [hcur]; exact hfit), rfl, ?_⟩
  rw [hcur, byteAt_toNat_eq_uintAt]
  exact zext32_uintAt_toNat bs _ (by decide)

/-- Settles O27: a buffer read that gave a buffer had all its bits (`execRdBuf_result`), so each byte read has its own
(`execRdUint_eight_advance`); and both reads of the second clause fail exactly when bit `8 * k - 1` from the cursor on
is past the end. -/
theorem bufferReadEqualsByteReads : Obligations.BufferReadEqualsByteReads := by
  unfold Obligations.BufferReadEqualsByteReads
  intro k s
  constructor
  · intro t b ht hb
    obtain ⟨bs, len, hread, hfit, rfl, rfl⟩ := execRdBuf_result ht hb
    refine ⟨State.advance_cur_toNat _ hfit, fun j hj => ?_⟩
    rw [bytesAt_getD bs _ hj]
    rw [bufferBits] at hfit
    exact execRdUint_eight_advance hread (by omega)
  · intro bs len hread hk hplace
    have hcur : (s.advance (8 * (k.toNat - 1))).cur.toNat = s.cur.toNat + 8 * (k.toNat - 1) :=
      State.advance_cur_toNat s (len := 1023#10) hplace
    have hend : s.cur.toNat + bufferBits k = s.cur.toNat + 8 * (k.toNat - 1) + 8 := by
      rw [bufferBits]
      omega
    have hbuf := execRdBuf_fails_iff hread (bytesAdmitted_iff.mpr hk)
    have hlast := execRdUint_fails_iff (wid := 8) (s := s.advance (8 * (k.toNat - 1))) hread (by decide)
    rw [hend] at hbuf
    rw [hcur] at hlast
    exact hbuf.trans hlast.symm

end Sys2Proof.Machine
end

section
/-! The refusals of the BR reads, and the two queries RD.REM and RD.LEN (spec/40_bitreader.md, R100, R104 and R105). -/

namespace Sys2Proof.Machine

/-- RD.LEN completes whether or not a read has failed (R105). -/
theorem execRdLen_latched {s : State} {bs : Bits} {len : BitVec 10} (h : s.latched bs len) :
    execRdLen s = .next (s.setRes (some (zext32 len.toNat))) :=
  withBitString_latched h _

/-- RD.REM completes where no read has failed (R104). -/
theorem execRdRem_readable {s : State} {bs : Bits} {len : BitVec 10} (h : s.readable bs len) :
    execRdRem s = .next (s.setRes (some (zext32 (remaining len s.cur)))) :=
  withLiveReader_readable h _

/-- `RES` holds any number of bits a BitString can have (R10, R26). -/
theorem zext32_toNat_of_le_len {v : Nat} {len : BitVec 10} (h : v ≤ len.toNat) : (zext32 v).toNat = v :=
  zext32_toNat ((h.trans_lt len.isLt).trans (by decide))

/-- No more bits remain than there are. -/
theorem remaining_le_len (len cur : BitVec 10) : remaining len cur ≤ len.toNat :=
  Nat.sub_le _ _

/-- Settles O20: RD.UINT, RD.BUF and RD.REM are refused by the precondition of a command that uses the cursor, RD.LEN
only by that of a command over a BitString. -/
theorem brReadPreconditions : Obligations.BrReadPreconditions := by
  unfold Obligations.BrReadPreconditions
  refine fun s => ⟨fun hv => ?_, fun bs len hl hf => ?_⟩
  · exact ⟨fun _ => withLiveReader_not_valid hv _, fun _ => withLiveReader_not_valid hv _,
      withLiveReader_not_valid hv _, withBitString_not_valid hv _⟩
  · exact ⟨fun _ => withLiveReader_faulted hl hf _, fun _ => withLiveReader_faulted hl hf _,
      withLiveReader_faulted hl hf _, _, execRdLen_latched hl⟩

/-- Settles O22: within the BitString the bits remaining and the cursor add up to the length. -/
theorem rdRemCountsRemaining : Obligations.RdRemCountsRemaining := by
  unfold Obligations.RdRemCountsRemaining
  refine fun s => ⟨fun hv => withLiveReader_not_valid hv _, fun bs len hl hcur => ?_⟩
  refine ⟨fun hf => withLiveReader_faulted hl hf _, fun hf => ⟨_, execRdRem_readable ⟨hl, hf⟩, ?_⟩⟩
  rw [zext32_toNat_of_le_len (remaining_le_len len s.cur), remaining]
  exact Nat.sub_add_cancel hcur

/-- Settles O23: RD.LEN completes over any latched BitString (`execRdLen_latched`), and the length fits `RES`. -/
theorem rdLenGivesLength : Obligations.RdLenGivesLength := by
  unfold Obligations.RdLenGivesLength
  exact fun s => ⟨fun hv => withBitString_not_valid hv _,
    fun bs len hl => ⟨_, execRdLen_latched hl, zext32_toNat_of_le_len le_rfl⟩⟩

end Sys2Proof.Machine
end

section
/-! The three functions of a LevelMask value by their bits, the commands of the LM unit, and the laws of R137
(spec/41_levelmask.md, R130 to R137). -/

namespace Sys2Proof.Machine

/-- The level is the number of bits a value needs (R130). -/
theorem level_le_iff_toNat_lt (v : Byte) (n : Nat) : level v ≤ n ↔ v.toNat < 2 ^ n := by
  by_cases hv : v = 0#8
  · simp [level, hv]
  · have hpos : v.toNat ≠ 0 := fun h => hv (BitVec.eq_of_toNat_eq h)
    rw [level, if_neg hv, hsb, ← Nat.log2_lt hpos]
    omega

/-- The level is the lowest position from which on no bit is set (R130). -/
theorem level_le_iff_getLsbD (v : Byte) (n : Nat) : level v ≤ n ↔ ∀ j, n ≤ j → v.getLsbD j = false := by
  rw [level_le_iff_toNat_lt]
  constructor
  · exact fun hlt j hj => Nat.testBit_lt_two_pow (hlt.trans_le (Nat.pow_le_pow_right (by decide) hj))
  · exact fun hclear => Nat.lt_pow_two_of_testBit _ hclear

theorem level_le_eight (v : Byte) : level v ≤ 8 :=
  (level_le_iff_toNat_lt v 8).mpr v.isLt

theorem one_le_level {v : Byte} (hv : v ≠ 0#8) : 1 ≤ level v := by
  rw [level, if_neg hv]
  omega

theorem getLsbD_of_level_le {v : Byte} {j : Nat} (h : level v ≤ j) : v.getLsbD j = false :=
  (level_le_iff_getLsbD v (level v)).mp le_rfl j h

/-- Were the bit at the highest position clear, the level would be lower (R130). -/
theorem getLsbD_level_sub_one {v : Byte} (hv : v ≠ 0#8) : v.getLsbD (level v - 1) = true := by
  by_contra hclear
  have hpos := one_le_level hv
  have hlower : level v ≤ level v - 1 := by
    rw [level_le_iff_getLsbD]
    intro j hj
    obtain rfl | hlt := hj.eq_or_lt
    · exact Bool.eq_false_of_not_eq_true hclear
    · exact getLsbD_of_level_le (by omega)
  omega

/-- `apply(v, n)` keeps the bits up to `n` and no other (R131). -/
theorem applyMask_getLsbD (v : Byte) (n j : Nat) :
    (applyMask v n).getLsbD j = (decide (j ≤ n) && v.getLsbD j) := by
  rw [applyMask, BitVec.getLsbD_and, BitVec.getLsbD_ofNat, Nat.testBit_two_pow_sub_one]
  by_cases hj : j < 8
  · simp [hj, Bool.and_comm]
  · simp [BitVec.getLsbD_of_ge v j (Nat.le_of_not_lt hj)]

/-- Law (a) of R137: no bit of a value lies at its level or above. -/
theorem applyMask_level_sub_one (v : Byte) : applyMask v (level v - 1) = v := by
  refine BitVec.eq_of_getLsbD_eq fun j _ => ?_
  rw [applyMask_getLsbD]
  by_cases hj : j ≤ level v - 1
  · simp [hj]
  · simp [getLsbD_of_level_le (show level v ≤ j by omega)]

/-- Law (e) of R137. -/
theorem level_applyMask_le (v : Byte) (n : Nat) : level (applyMask v n) ≤ n + 1 := by
  rw [level_le_iff_getLsbD]
  intro j hj
  rw [applyMask_getLsbD]
  simp [Nat.not_le_of_lt hj]

/-- `hashCount` is the library's count over the eight positions (R132). -/
theorem hashCount_eq_count (v : Byte) : hashCount v = Nat.count (fun j => v.getLsbD j = true) 8 := by
  simp [hashCount, Nat.count]

/-- Only the positions below the level count, since no bit is set above them. -/
theorem hashCount_eq_count_level (v : Byte) : hashCount v = Nat.count (fun j => v.getLsbD j = true) (level v) := by
  have hrest : Nat.count (fun k => v.getLsbD (level v + k) = true) (8 - level v) = 0 :=
    Nat.count_of_forall_not fun k _ => by simp [getLsbD_of_level_le (Nat.le_add_right (level v) k)]
  calc hashCount v
      = Nat.count (fun j => v.getLsbD j = true) (level v + (8 - level v)) := by
        rw [hashCount_eq_count, Nat.add_sub_cancel' (level_le_eight v)]
    _ = Nat.count (fun j => v.getLsbD j = true) (level v) := by rw [Nat.count_add, hrest, Nat.add_zero]

/-- Law (c) of R137, the bound. -/
theorem hashCount_le_level (v : Byte) : hashCount v ≤ level v := by
  rw [hashCount_eq_count_level]
  exact Nat.count_le _

/-- A value is `2^L - 1` at its level `L` exactly when every bit below the level is set. -/
theorem toNat_eq_two_pow_level_sub_one_iff (v : Byte) :
    v.toNat = 2 ^ level v - 1 ↔ ∀ j < level v, v.getLsbD j = true := by
  constructor
  · intro h j hj
    rw [← BitVec.testBit_toNat, h, Nat.testBit_two_pow_sub_one]
    exact decide_eq_true hj
  · refine fun hset => Nat.eq_of_testBit_eq fun j => ?_
    rw [BitVec.testBit_toNat, Nat.testBit_two_pow_sub_one]
    by_cases hj : j < level v
    · simp [hj, hset j hj]
    · simp [hj, getLsbD_of_level_le (Nat.le_of_not_lt hj)]

/-- Law (c) of R137, where the bound is met: every position below the level counts. -/
theorem hashCount_eq_level_iff (v : Byte) : hashCount v = level v ↔ v.toNat = 2 ^ level v - 1 := by
  rw [toNat_eq_two_pow_level_sub_one_iff, hashCount_eq_count_level]
  exact Nat.count_iff_forall

/-- Law (d) of R137. -/
theorem level_le_three_iff (v : Byte) : level v ≤ 3 ↔ v.toNat ≤ 7 := by
  rw [level_le_iff_toNat_lt]
  omega

theorem hashCount_eq_card (v : Byte) :
    hashCount v = (Finset.univ.filter fun j : Fin 8 => v.getLsbD j.val = true).card := by
  rw [hashCount_eq_count, Nat.count_eq_card_filter_range, Finset.card_filter, Finset.card_filter, Finset.sum_range]

/-- `RES` holds a byte, zero-extended (R10). -/
theorem zext32_toNat_getLsbD (v : Byte) (j : Nat) : (zext32 v.toNat).getLsbD j = v.getLsbD j := by
  rw [← BitVec.testBit_toNat, zext32_toNat (v.isLt.trans (by decide)), BitVec.testBit_toNat]

/-- Settles O35: the five laws, each a lemma over every value. -/
theorem levelMaskLaws : Obligations.LevelMaskLaws := by
  unfold Obligations.LevelMaskLaws
  exact fun v _ => ⟨applyMask_level_sub_one v, congrArg hashCount (applyMask_level_sub_one v), hashCount_le_level v,
    hashCount_eq_level_iff v, level_le_three_iff v, level_applyMask_le v⟩

/-- Settles O32: the highest set bit stands one below the level (`getLsbD_level_sub_one`), with none set above it. -/
theorem lmLevelIsHighestSetBit : Obligations.LmLevelIsHighestSetBit := by
  unfold Obligations.LmLevelIsHighestSetBit
  refine fun v s => ⟨zext32 (level v), rfl, fun hv => by rw [hv]; rfl, fun hv => ?_⟩
  have hpos := one_le_level hv
  refine ⟨level v - 1, ?_, getLsbD_level_sub_one hv, fun j hj => getLsbD_of_level_le (by omega)⟩
  rw [zext32_toNat ((level_le_eight v).trans_lt (by decide))]
  omega

/-- Settles O33: the bits of `RES` are those of `apply(v, n)` (`applyMask_getLsbD`). -/
theorem lmApplyKeepsLowBits : Obligations.LmApplyKeepsLowBits := by
  unfold Obligations.LmApplyKeepsLowBits
  refine fun v n s => ⟨_, rfl, fun j => ?_⟩
  rw [zext32_toNat_getLsbD, applyMask_getLsbD]

/-- Settles O34: the count is that of the set positions (`hashCount_eq_card`), and it fits `RES`. -/
theorem lmHashcountCountsSetBits : Obligations.LmHashcountCountsSetBits := by
  unfold Obligations.LmHashcountCountsSetBits
  refine fun v s => ⟨zext32 (hashCount v), rfl, ?_⟩
  rw [zext32_toNat (((hashCount_le_level v).trans (level_le_eight v)).trans_lt (by decide)), hashCount_eq_card]

end Sys2Proof.Machine
end

section
/-! The commands of the CRC unit, how the unit stands apart from the others, and the checksum a stream of commands
computes (spec/42_crc32c.md, R152 to R158). -/

namespace Sys2Proof.Machine

/-- The four bytes, least significant first, make up the register (R152). -/
theorem le4_toNat (r : Word) :
    (le4 r)[0].toNat + 256 * (le4 r)[1].toNat + 65536 * (le4 r)[2].toNat + 16777216 * (le4 r)[3].toNat = r.toNat := by
  have := r.isLt
  simp only [le4, Vector.getElem_mk, List.getElem_toArray, List.getElem_cons_zero, List.getElem_cons_succ,
    BitVec.extractLsb'_toNat, Nat.shiftRight_eq_div_pow]
  omega

/-- Settles O36: CRC.INIT has no precondition, and `startCrc` writes the register and its flag alone. -/
theorem crcInitStartsChecksum : Obligations.CrcInitStartsChecksum := by
  unfold Obligations.CrcInitStartsChecksum
  exact fun _ => rfl

/-- Settles O38: the precondition refuses or gives the register (`withCrc_valid`), whose complement the four bytes make
up (`le4_toNat`). -/
theorem crcFinalLittleEndian : Obligations.CrcFinalLittleEndian := by
  unfold Obligations.CrcFinalLittleEndian
  exact fun s => ⟨fun hv => withCrc_not_valid hv _,
    fun r hv hr => ⟨le4 (r ^^^ Config.crcXorOut), withCrc_valid hv hr _, le4_toNat _⟩⟩

/-- The CRC unit as it is in `s`, in a block that is otherwise `u`. -/
def State.withCrcOf (u s : State) : State := u.withCrcUnit s.crcReg s.crcValid s.crcOut

theorem State.withCrcOf_eq_self {s u : State} (hreg : u.crcReg = s.crcReg) (hvalid : u.crcValid = s.crcValid)
    (hout : u.crcOut = s.crcOut) : u.withCrcOf s = u := by
  rw [withCrcOf, ← hreg, ← hvalid, ← hout]; rfl

/-- A CRC command does to the CRC unit of a block what it does to that unit in any other block (R158). -/
theorem exec_withCrcOf_of_isCrc {i : Instr} (hi : i.isCrc = true) (u s : State) :
    exec i (u.withCrcOf s) = mapNext u.withCrcOf (exec i s) := by
  cases i with
  | crcInit => rfl
  | crcUpdate byte => exact withCrc_map rfl rfl fun _ => rfl
  | crcFinal => exact withCrc_map rfl rfl fun _ => rfl
  | _ => cases hi

/-- A command of another unit carries any content of the CRC unit along (R158). -/
theorem exec_withCrcUnit_of_not_isCrc {i : Instr} (hi : i.isCrc = false) (s : State) (reg : Option Word)
    (valid : Bool) (out : Option (Vector Byte 4)) :
    exec i (s.withCrcUnit reg valid out) = mapNext (·.withCrcUnit reg valid out) (exec i s) := by
  cases i with
  | rdInit len => rw [exec, exec, execRdInit, execRdInit, mapNext_ite]; rfl
  | rdUint wid => exact withLiveReader_map rfl rfl rfl fun _ _ => by rw [mapNext_ite, mapNext_ite]; rfl
  | rdBuf nby => exact withLiveReader_map rfl rfl rfl fun _ _ => by rw [mapNext_ite, mapNext_ite]; rfl
  | rdRem => exact withLiveReader_map rfl rfl rfl fun _ _ => rfl
  | rdLen => exact withBitString_map rfl rfl rfl fun _ _ => rfl
  | lmLevel val => rfl
  | lmApply val apn => rfl
  | lmHashcount val => rfl
  | prDecode refs =>
    refine withBitString_map rfl rfl rfl fun bs len => ?_
    rw [mapNext_ite]
    cases decodeCell bs len.toNat refs.toNat <;> rfl
  | crcInit => cases hi
  | crcUpdate byte => cases hi
  | crcFinal => cases hi

/-- Settles O42: a block that agrees with `s` in the CRC unit is itself with the CRC unit of `s`, on which a CRC command
does what it does in `s`; a command of another unit carries the CRC unit along. -/
theorem crcUnitIsStandalone : Obligations.CrcUnitIsStandalone := by
  unfold Obligations.CrcUnitIsStandalone
  refine ⟨fun i s u hi hreg hvalid hout => ?_, fun i s reg valid out hi =>
    exec_withCrcUnit_of_not_isCrc hi s reg valid out⟩
  have h := exec_withCrcOf_of_isCrc hi u s
  rwa [State.withCrcOf_eq_self hreg hvalid hout] at h

/-- A command of another unit writes nothing of the CRC unit: it leaves what it carries along. -/
theorem withCrcOf_of_not_isCrc {i : Instr} (hi : i.isCrc = false) {s t : State} (h : exec i s = .next t) (u : State) :
    u.withCrcOf t = u.withCrcOf s := by
  have hcarry := exec_withCrcUnit_of_not_isCrc hi s s.crcReg s.crcValid s.crcOut
  rw [h] at hcarry
  have ht : t = t.withCrcOf s := Host.Outcome.next.inj (h.symm.trans hcarry)
  rw [ht]; rfl

theorem runInstrs_cons_of_next {i : Instr} {s m : State} (h : exec i s = .next m) (rest : List Instr) :
    runInstrs (i :: rest) s = runInstrs rest m := by
  rw [runInstrs, h]

theorem runInstrs_cons_next {i : Instr} {rest : List Instr} {s t : State} (h : runInstrs (i :: rest) s = .next t) :
    ∃ m, exec i s = .next m ∧ runInstrs rest m = .next t := by
  unfold runInstrs at h
  split at h
  case h_1 m hm => exact ⟨m, hm, h⟩
  case h_2 => cases h
  case h_3 => cases h

/-- What a run does to the CRC unit its CRC commands do alone, in any block (R156, R158). -/
theorem runInstrs_filter_isCrc {prog : List Instr} {s t : State} (h : runInstrs prog s = .next t) (u : State) :
    runInstrs (prog.filter Instr.isCrc) (u.withCrcOf s) = .next (u.withCrcOf t) := by
  induction prog generalizing s with
  | nil => cases h; rfl
  | cons i rest ih =>
    obtain ⟨m, hm, hrest⟩ := runInstrs_cons_next h
    cases hi : i.isCrc
    · rw [List.filter_cons_of_neg (by simp [hi]), ← withCrcOf_of_not_isCrc hi hm u]
      exact ih hrest
    · have hstep : exec i (u.withCrcOf s) = .next (u.withCrcOf m) := by
        rw [exec_withCrcOf_of_isCrc hi, hm]; rfl
      rw [List.filter_cons_of_pos hi, runInstrs_cons_of_next hstep]
      exact ih hrest

/-- The bytes of a stream take the register through `crcStep*` (R150, R154). -/
theorem runInstrs_crcUpdates (b : List Byte) (rest : List Instr) (s : State) (r : Word) :
    runInstrs (b.map Instr.crcUpdate ++ rest) (s.startCrc r) = runInstrs rest (s.startCrc (crcSteps r b)) := by
  induction b generalizing r with
  | nil => rfl
  | cons x b ih => exact ih (crcByte r x)

/-- The CRC commands of a stream, one after another, run to their end from every state (R80, R150, R153 to R155). -/
theorem runInstrs_crcBufInstrs (b : List Byte) (s : State) :
    runInstrs (crcBufInstrs b) s = .next ((s.startCrc (crcSteps Config.crcInit b)).setCrcOut (crc32c b)) :=
  runInstrs_crcUpdates b [.crcFinal] s Config.crcInit

/-- Settles O39: the CRC unit ends as the CRC commands alone leave it (`runInstrs_filter_isCrc`), and these put
`crc32c` of the bytes into `CRC_OUT` (`runInstrs_crcBufInstrs`). -/
theorem crcStreamComputesCrc32c : Obligations.CrcStreamComputesCrc32c := by
  unfold Obligations.CrcStreamComputesCrc32c
  intro prog b s t hprog hrun
  have hcrc : runInstrs (crcBufInstrs b) (s.withCrcOf s) = .next (s.withCrcOf t) := by
    rw [crcBufInstrs, ← hprog]
    exact runInstrs_filter_isCrc hrun s
  rw [runInstrs_crcBufInstrs] at hcrc
  exact (congrArg State.crcOut (Host.Outcome.next.inj hcrc)).symm

end Sys2Proof.Machine
end

section
/-! What each gate of the decoder answers where it is the one that decides, and the cells it accepts
(spec/43_pruned_decoder.md, R173 to R187). -/

namespace Sys2Proof.Machine

section
variable {bs : Bits} {len refs : Nat}

/-- Step 1, below 8 bits (R173). -/
theorem decodeCell_of_lt_eight (hlen : len < 8) : decodeCell bs len refs = .error ⟨.outOfBounds, false, 8, len⟩ := by
  rw [decodeCell_eq, if_pos hlen]

/-- Step 1, another type byte than 1 (R173). -/
theorem decodeCell_of_type_ne (hlen : 8 ≤ len) (htype : uintAt bs 0 8 ≠ 1) :
    decodeCell bs len refs = .error ⟨.invalidCellType, false, 1, uintAt bs 0 8⟩ := by
  rw [decodeCell_eq, if_neg (Nat.not_lt.mpr hlen), if_pos htype]

/-- Step 2, a reference list that is not empty (R174). -/
theorem decodeCell_of_refs_ne (hlen : 8 ≤ len) (htype : uintAt bs 0 8 = 1) (hrefs : refs ≠ 0) :
    decodeCell bs len refs = .error ⟨.invalidStructure, false, 0, refs⟩ := by
  rw [decodeCell_eq, if_neg (Nat.not_lt.mpr hlen), if_neg (not_not_intro htype), if_pos hrefs]

/-- Step 3, the legacy length (R175, R184). -/
theorem decodeCell_legacy (htype : uintAt bs 0 8 = 1) :
    decodeCell bs 280 0 = .ok ⟨1#8, 1, [hashAt bs 8], [depthAt bs 264], 280⟩ := by
  simp [decodeCell_eq, htype]

/-- Step 4, no room for the mask byte (R176). -/
theorem decodeCell_of_lt_sixteen (hmin : 8 ≤ len) (htype : uintAt bs 0 8 = 1) (hlen : len < 16) :
    decodeCell bs len 0 = .error ⟨.outOfBounds, false, 8, len - 8⟩ := by
  have hlegacy : len ≠ 280 := by omega
  simp [decodeCell_eq, Nat.not_lt.mpr hmin, htype, hlegacy, hlen]

/-- The byte a gate reads is the number it reads (R176). -/
theorem byteAt_eq_of_toNat {c : Nat} {m : Byte} (hm : m.toNat = uintAt bs c 8) : byteAt bs c 0 = m :=
  BitVec.eq_of_toNat_eq ((byteAt_toNat bs c).trans hm.symm)

/-- Step 4, a mask byte of 0 or at least 8 (R176). -/
theorem decodeCell_of_level {m : Byte} (hlen : 16 ≤ len) (hlegacy : len ≠ 280) (htype : uintAt bs 0 8 = 1)
    (hm : m.toNat = uintAt bs 8 8) (hout : m.toNat = 0 ∨ 8 ≤ m.toNat) :
    decodeCell bs len 0 = .error ⟨.invalidLevel, false, m.toNat, level m⟩ := by
  have hmin : ¬ len < 8 := by omega
  have hlevel : ¬ (1 ≤ m.toNat ∧ m.toNat ≤ 7) := by omega
  rw [decodeCell_eq, byteAt_eq_of_toNat hm, if_neg hmin, if_neg (not_not_intro htype), if_neg (not_not_intro rfl),
    if_neg hlegacy, if_neg (Nat.not_lt.mpr hlen), if_pos hlevel]

/-- Step 5, another length than the size the mask demands (R177). -/
theorem decodeCell_of_size_ne {m : Byte} (hlen : 16 ≤ len) (hlegacy : len ≠ 280) (htype : uintAt bs 0 8 = 1)
    (hm : m.toNat = uintAt bs 8 8) (hlevel : 1 ≤ m.toNat ∧ m.toNat ≤ 7) (hsize : len ≠ 16 + 272 * hashCount m) :
    decodeCell bs len 0 = .error ⟨.invalidStructure, true, 16 + 272 * hashCount m, len⟩ := by
  have hmin : ¬ len < 8 := by omega
  rw [decodeCell_eq, byteAt_eq_of_toNat hm, if_neg hmin, if_neg (not_not_intro htype), if_neg (not_not_intro rfl),
    if_neg hlegacy, if_neg (Nat.not_lt.mpr hlen), if_neg (not_not_intro hlevel), if_pos hsize]

/-- Steps 6 and 7, at the size the mask demands: the cell decodes, or a hash read runs off the end (R178, R179). -/
theorem decodeCell_of_size_eq {m : Byte} (htype : uintAt bs 0 8 = 1) (hm : m.toNat = uintAt bs 8 8)
    (hlevel : 1 ≤ m.toNat ∧ m.toNat ≤ 7) (hsize : len = 16 + 272 * hashCount m) :
    (∃ cell, decodeCell bs len 0 = .ok cell) ∨ ∃ rest, decodeCell bs len 0 = .error ⟨.outOfBounds, false, 256, rest⟩ := by
  have hmin : ¬ len < 8 := by omega
  have hlegacy : len ≠ 280 := by omega
  have hlen : ¬ len < 16 := by omega
  rw [decodeCell_eq, byteAt_eq_of_toNat hm, if_neg hmin, if_neg (not_not_intro htype), if_neg (not_not_intro rfl),
    if_neg hlegacy, if_neg hlen, if_neg (not_not_intro hlevel), if_neg (not_not_intro hsize)]
  split_ifs <;> simp

/-- Step 6, the masks with one set bit and a higher level: the second hash runs off the end (R178, R183). -/
theorem decodeCell_of_mask_two_four {m : Byte} (htype : uintAt bs 0 8 = 1) (hm : m.toNat = uintAt bs 8 8)
    (hgap : m = 2#8 ∨ m = 4#8) : decodeCell bs 288 0 = .error ⟨.outOfBounds, false, 256, 16⟩ := by
  have counts : hashCount 2#8 = 1 ∧ hashCount 4#8 = 1 := by decide
  rcases hgap with rfl | rfl <;> simp [decodeCell_eq, htype, byteAt_eq_of_toNat hm, counts]

/-- Step 6, the masks with two set bits and a higher level: the third hash runs off the end (R178, R183). -/
theorem decodeCell_of_mask_five_six {m : Byte} (htype : uintAt bs 0 8 = 1) (hm : m.toNat = uintAt bs 8 8)
    (hgap : m = 5#8 ∨ m = 6#8) : decodeCell bs 560 0 = .error ⟨.outOfBounds, false, 256, 32⟩ := by
  have counts : hashCount 5#8 = 2 ∧ hashCount 6#8 = 2 := by decide
  rcases hgap with rfl | rfl <;> simp [decodeCell_eq, htype, byteAt_eq_of_toNat hm, counts]

/-- The four shapes of cell the decoder accepts (R182, R184). -/
theorem decodeCell_ok_iff :
    (∃ cell, decodeCell bs len refs = .ok cell) ↔
      8 ≤ len ∧ uintAt bs 0 8 = 1 ∧ refs = 0 ∧
        (len = 280 ∨ len = 288 ∧ uintAt bs 8 8 = 1 ∨ len = 560 ∧ uintAt bs 8 8 = 3 ∨ len = 832 ∧ uintAt bs 8 8 = 7) := by
  constructor
  · rintro ⟨cell, h⟩
    obtain ⟨hlen, htype, hrefs, hshape⟩ := decodeCell_ok_cases h
    refine ⟨hlen, htype, hrefs, ?_⟩
    rw [← byteAt_toNat bs 8]
    obtain ⟨h280, -⟩ | ⟨h288, hm, -⟩ | ⟨h560, hm, -⟩ | ⟨h832, hm, -⟩ := hshape
    · exact .inl h280
    · exact .inr (.inl ⟨h288, congrArg BitVec.toNat hm⟩)
    · exact .inr (.inr (.inl ⟨h560, congrArg BitVec.toNat hm⟩))
    · exact .inr (.inr (.inr ⟨h832, congrArg BitVec.toNat hm⟩))
  · have counts : hashCount 1#8 = 1 ∧ hashCount 3#8 = 2 ∧ hashCount 7#8 = 3 := by decide
    rintro ⟨-, htype, rfl, rfl | ⟨rfl, hm⟩ | ⟨rfl, hm⟩ | ⟨rfl, hm⟩⟩
    · exact ⟨_, decodeCell_legacy htype⟩
    · simp [decodeCell_eq, htype, byteAt_eq_of_toNat (m := 1#8) hm.symm, counts]
    · simp [decodeCell_eq, htype, byteAt_eq_of_toNat (m := 3#8) hm.symm, counts]
    · simp [decodeCell_eq, htype, byteAt_eq_of_toNat (m := 7#8) hm.symm, counts]

/-- The mask and the level of a decoded cell are those of its length (R182, R184). -/
theorem decodeCell_ok_mask_level {cell : Cell} (h : decodeCell bs len refs = .ok cell) :
    (len = 280 ∨ len = 288 → cell.mask = 1#8 ∧ cell.level = 1) ∧ (len = 560 → cell.mask = 3#8 ∧ cell.level = 2) ∧
      (len = 832 → cell.mask = 7#8 ∧ cell.level = 3) := by
  obtain ⟨-, -, -, ⟨rfl, rfl⟩ | ⟨rfl, -, rfl⟩ | ⟨rfl, -, rfl⟩ | ⟨rfl, -, rfl⟩⟩ := decodeCell_ok_cases h <;> simp

end

/-- Bit `7 - k` of byte `j` of a hash is the bit at offset `k` of its eight (R54, R178). -/
theorem hashAt_getLsbD (bs : Bits) (c : Nat) (j : Fin 32) {k : Nat} (hk : k < 8) :
    (hashAt bs c)[j].getLsbD (7 - k) = bs.getLsbD (c + 8 * j.val + k) := by
  have hback : 7 - (7 - k) = k := by omega
  rw [hashAt, Fin.getElem_fin, Vector.getElem_ofFn, byteAt_getLsbD _ _ _ (by omega), hback]

/-- Bit `15 - k` of a depth is the bit at offset `k` of its sixteen (R53, R178). -/
theorem depthAt_getLsbD (bs : Bits) (c : Nat) {k : Nat} (hk : k < 16) :
    (depthAt bs c).getLsbD (15 - k) = bs.getLsbD (c + k) := by
  have hlt : 15 - k < 16 := by omega
  have hback : 16 - 1 - (15 - k) = k := by omega
  rw [depthAt, BitVec.getLsbD_ofNat, testBit_uintAt, hback]
  simp [hlt]

/-- Settles O55: each of the four cells (`decodeCell_ok_cases`) ends at its length, with as many entries as its level. -/
theorem prDecodeReadsEveryBit : Obligations.PrDecodeReadsEveryBit := by
  unfold Obligations.PrDecodeReadsEveryBit
  intro bs len refs cell h
  obtain ⟨-, -, -, ⟨rfl, rfl⟩ | ⟨rfl, -, rfl⟩ | ⟨rfl, -, rfl⟩ | ⟨rfl, -, rfl⟩⟩ := decodeCell_ok_cases h <;>
    exact ⟨rfl, rfl, rfl⟩

end Sys2Proof.Machine
end

section
/-! PR.DECODE over a latched BitString: its preconditions, the error of the gate that decides, the cell it commits, and
that it reads and writes nothing else (spec/43_pruned_decoder.md, R171 to R186). -/

namespace Sys2Proof.Machine

@[simp] theorem prCode_prStatusOf : ∀ (code : BitVec 3) (sub : Bool), prCode (prStatusOf code sub) = code := by decide

theorem codeOf_ne_zero (kind : ErrorKind) : codeOf kind ≠ 0#3 := by cases kind <;> decide

section
variable {refs : BitVec 3} {s : State} {bs : Bits} {len : BitVec 10} {kind : ErrorKind} {sub : Bool} {a b : Nat}
  {status : BitVec 8}

/-- An admitted PR.DECODE reports the error of the gate that fails (R180). -/
theorem exec_prDecode_of_error (hl : s.latched bs len) (hr : refs.toNat ≤ 4)
    (hstatus : prStatusOf (codeOf kind) sub = status)
    (he : decodeCell bs len.toNat refs.toNat = .error ⟨kind, sub, a, b⟩) :
    exec (.prDecode refs) s = .next (s.afterFailedDecode status (BitVec.ofNat 16 a) (BitVec.ofNat 16 b)) := by
  subst hstatus
  exact execPrDecode_error (e := ⟨kind, sub, a, b⟩) hl (refsAdmitted_iff.mpr hr) he

/-- PR.DECODE without references reports the error of the gate that fails (R180). -/
theorem exec_prDecode_zero_of_error (hl : s.latched bs len) (hstatus : prStatusOf (codeOf kind) sub = status)
    (he : decodeCell bs len.toNat 0 = .error ⟨kind, sub, a, b⟩) :
    exec (.prDecode 0) s = .next (s.afterFailedDecode status (BitVec.ofNat 16 a) (BitVec.ofNat 16 b)) :=
  exec_prDecode_of_error (refs := 0) hl (by decide) hstatus he

/-- PR.DECODE without references commits the cell of a decode that passes every gate (R179). -/
theorem exec_prDecode_zero_of_ok {cell : Cell} (hl : s.latched bs len) (hc : decodeCell bs len.toNat 0 = .ok cell) :
    exec (.prDecode 0) s = .next (s.commitDecode cell.mask cell.level cell.hashes cell.depths) :=
  execPrDecode_ok (refs := 0) hl (by decide) hc

/-- At the size the mask demands PR.DECODE succeeds or reports OutOfBounds (R178, R179). -/
theorem exec_prDecode_of_size_eq {m : Byte} (hl : s.latched bs len) (htype : uintAt bs 0 8 = 1)
    (hm : m.toNat = uintAt bs 8 8) (hlevel : 1 ≤ m.toNat ∧ m.toNat ≤ 7) (hsize : len.toNat = 16 + 272 * hashCount m) :
    ∃ t, exec (.prDecode 0) s = .next t ∧ (prCode t.prStatus = 0#3 ∨ prCode t.prStatus = 1#3) := by
  obtain ⟨cell, hc⟩ | ⟨rest, he⟩ := decodeCell_of_size_eq htype hm hlevel hsize
  · exact ⟨_, exec_prDecode_zero_of_ok hl hc, .inl (prCode_prStatusOf ..)⟩
  · exact ⟨_, exec_prDecode_zero_of_error hl rfl he, .inr (prCode_prStatusOf ..)⟩

/-- A mask of `n` bits whose level is above `n`: the size check admits one length, at which a hash read runs off the end
(R183). -/
theorem exec_prDecode_of_gapped {m : Byte} {n rest : Nat} (hl : s.latched bs len) (hlen : 16 ≤ len.toNat)
    (hlegacy : len.toNat ≠ 280) (htype : uintAt bs 0 8 = 1) (hm : m.toNat = uintAt bs 8 8)
    (hlevel : 1 ≤ m.toNat ∧ m.toNat ≤ 7) (hcount : hashCount m = n)
    (hgap : decodeCell bs (16 + 272 * n) 0 = .error ⟨.outOfBounds, false, 256, rest⟩) :
    exec (.prDecode 0) s = .next
      (if len.toNat = 16 + 272 * n then s.afterFailedDecode 0x03#8 256#16 (BitVec.ofNat 16 rest)
       else s.afterFailedDecode 0x17#8 (BitVec.ofNat 16 (16 + 272 * n)) (BitVec.ofNat 16 len.toNat)) := by
  subst hcount
  split
  case isTrue hsize => exact exec_prDecode_zero_of_error hl prStatusOf_outOfBounds (hsize ▸ hgap)
  case isFalse hsize =>
    exact exec_prDecode_zero_of_error hl prStatusOf_length (decodeCell_of_size_ne hlen hlegacy htype hm hlevel hsize)

end

/-- Settles O43: the precondition of a command over a BitString comes before the operand test, and the decoder gives a
cell or an error. -/
theorem prDecodePreconditions : Obligations.PrDecodePreconditions := by
  unfold Obligations.PrDecodePreconditions
  refine fun refs s => ⟨fun hv => withBitString_not_valid hv _, fun bs len hl hrefs => ?_, fun bs len hl hrefs => ?_⟩
  · exact execPrDecode_of_not_admitted hl (by rw [refsAdmitted_iff]; omega)
  · cases hd : decodeCell bs len.toNat refs.toNat with
    | ok cell => exact ⟨_, execPrDecode_ok hl (refsAdmitted_iff.mpr hrefs) hd⟩
    | error e => exact ⟨_, execPrDecode_error hl (refsAdmitted_iff.mpr hrefs) hd⟩

/-- Settles O45: step 1 decides whatever `REFS` is. -/
theorem prDecodeTypeGate : Obligations.PrDecodeTypeGate := by
  unfold Obligations.PrDecodeTypeGate
  intro refs s bs len hl hr
  exact ⟨fun hlen => exec_prDecode_of_error hl hr prStatusOf_outOfBounds (decodeCell_of_lt_eight hlen),
    fun hlen htype => exec_prDecode_of_error hl hr prStatusOf_invalidCellType (decodeCell_of_type_ne hlen htype)⟩

/-- Settles O46: step 2 decides before any length test but that of the type byte. -/
theorem prDecodeRefsGate : Obligations.PrDecodeRefsGate := by
  unfold Obligations.PrDecodeRefsGate
  intro refs s bs len hl hr hrefs hlen htype
  rw [← BitVec.ofNat_toNat]
  exact exec_prDecode_of_error hl hr prStatusOf_references (decodeCell_of_refs_ne hlen htype hrefs)

/-- Settles O47: a mask byte 1 to 7 fails, if at all, on the size (`decodeCell_of_size_ne`) or on a hash read
(`exec_prDecode_of_size_eq`). -/
theorem prDecodeMaskGate : Obligations.PrDecodeMaskGate := by
  unfold Obligations.PrDecodeMaskGate
  intro s bs len hl hmin hlegacy htype
  refine ⟨fun hlen => ?_, fun m hlen hm => ⟨fun hout => ?_, fun h1 h7 => ?_⟩⟩
  · exact exec_prDecode_zero_of_error hl prStatusOf_outOfBounds
      (decodeCell_of_lt_sixteen hmin htype (Nat.lt_succ_of_le hlen))
  · rw [← BitVec.ofNat_toNat]
    exact exec_prDecode_zero_of_error hl prStatusOf_invalidLevel (decodeCell_of_level hlen hlegacy htype hm hout)
  · by_cases hsize : len.toNat = 16 + 272 * hashCount m
    · obtain ⟨t, ht, hcode | hcode⟩ := exec_prDecode_of_size_eq hl htype hm ⟨h1, h7⟩ hsize <;>
        exact ⟨t, ht, by simp [hcode]⟩
    · have he := decodeCell_of_size_ne hlen hlegacy htype hm ⟨h1, h7⟩ hsize
      exact ⟨_, exec_prDecode_zero_of_error hl prStatusOf_length he, by show prCode 0x17#8 ≠ 4#3; decide⟩

/-- Settles O48: no bit of a mask lies at its level or above (`applyMask_level_sub_one`), so its size counts all its
bits; at that size only a hash read can fail (`exec_prDecode_of_size_eq`). -/
theorem prDecodeSizeGate : Obligations.PrDecodeSizeGate := by
  unfold Obligations.PrDecodeSizeGate
  intro s bs len m hl hlen hlegacy htype hm h1 h7
  refine ⟨?_, fun hsize => ?_, fun hsize => ?_⟩
  · rw [applyMask_level_sub_one, Nat.mul_comm]
  · exact exec_prDecode_zero_of_error hl prStatusOf_length
      (decodeCell_of_size_ne hlen hlegacy htype hm ⟨h1, h7⟩ hsize)
  · obtain ⟨t, ht, hcode | hcode⟩ := exec_prDecode_of_size_eq hl htype hm ⟨h1, h7⟩ hsize <;>
      exact ⟨t, ht, by simp [hcode]⟩

/-- Settles O49: masks 2 and 4 have one set bit, masks 5 and 6 two, each fewer than its level. -/
theorem prDecodeGappedMasksNeverDecode : Obligations.PrDecodeGappedMasksNeverDecode := by
  unfold Obligations.PrDecodeGappedMasksNeverDecode
  intro s bs len m hl hlen hlegacy htype hm
  constructor
  · intro hgap
    have hfacts : (1 ≤ m.toNat ∧ m.toNat ≤ 7) ∧ hashCount m = 1 := by rcases hgap with rfl | rfl <;> decide
    exact exec_prDecode_of_gapped hl hlen hlegacy htype hm hfacts.1 hfacts.2 (decodeCell_of_mask_two_four htype hm hgap)
  · intro hgap
    have hfacts : (1 ≤ m.toNat ∧ m.toNat ≤ 7) ∧ hashCount m = 2 := by rcases hgap with rfl | rfl <;> decide
    exact exec_prDecode_of_gapped hl hlen hlegacy htype hm hfacts.1 hfacts.2 (decodeCell_of_mask_five_six htype hm hgap)

/-- Settles O51: at 280 bits the decoder reads neither a mask nor a size (`decodeCell_legacy`), and the entries it commits
are the bits from 8 and from 264 on. -/
theorem prDecodeLegacyLayout : Obligations.PrDecodeLegacyLayout := by
  unfold Obligations.PrDecodeLegacyLayout
  intro s bs hl htype
  exact ⟨_, hashAt bs 8, depthAt bs 264, exec_prDecode_zero_of_ok hl (decodeCell_legacy htype),
    fun j _ hk => hashAt_getLsbD bs 8 j hk, fun _ hk => depthAt_getLsbD bs 264 hk, rfl⟩

/-- Settles O52: CODE is 0 exactly when the decoder gives a cell, which it does for the four shapes alone
(`decodeCell_ok_iff`), with the mask and the level of its length (`decodeCell_ok_mask_level`). -/
theorem prDecodeSucceedsExactly : Obligations.PrDecodeSucceedsExactly := by
  unfold Obligations.PrDecodeSucceedsExactly
  intro refs s t bs len hl h
  have hrefs : refs = 0#3 ↔ refs.toNat = 0 := BitVec.toNat_inj.symm
  rw [hrefs, ← decodeCell_ok_iff]
  obtain ⟨bs', len', hl', -, hcases⟩ := execPrDecode_next h
  obtain ⟨rfl, rfl⟩ := State.latched_unique hl hl'
  obtain ⟨cell, hc, rfl⟩ | ⟨e, he, rfl⟩ := hcases
  · have hregs {m : Byte} {l : Nat} (hcell : cell.mask = m ∧ cell.level = l) :
        some cell.mask = some m ∧ some (BitVec.ofNat 2 cell.level) = some (BitVec.ofNat 2 l) := by
      obtain ⟨rfl, rfl⟩ := hcell
      exact ⟨rfl, rfl⟩
    obtain ⟨hone, htwo, hthree⟩ := decodeCell_ok_mask_level hc
    exact ⟨iff_of_true (prCode_prStatusOf ..) ⟨cell, hc⟩,
      fun _ => ⟨fun hlen => hregs (hone hlen), fun hlen => hregs (htwo hlen), fun hlen => hregs (hthree hlen)⟩⟩
  · have hcode : prCode (prStatusOf (codeOf e.kind) e.sub) ≠ 0#3 := by
      rw [prCode_prStatusOf]
      exact codeOf_ne_zero e.kind
    exact ⟨iff_of_false hcode (by simp [he]), fun hzero => absurd hzero hcode⟩

/-- Settles O54: what PR.DECODE commits is a function of `BS`, `BS_LEN` and `REFS`, and it goes to the PR registers. -/
theorem prDecodeIsRepeatable : Obligations.PrDecodeIsRepeatable := by
  unfold Obligations.PrDecodeIsRepeatable
  intro refs s t h
  obtain ⟨bs, len, ⟨-, hbs, hlen⟩, hr, ⟨cell, hc, rfl⟩ | ⟨e, he, rfl⟩⟩ := execPrDecode_next h
  · exact ⟨rfl, fun u hv hb hn => execPrDecode_ok ⟨hv, hb.trans hbs, hn.trans hlen⟩ hr hc⟩
  · exact ⟨rfl, fun u hv hb hn => execPrDecode_error ⟨hv, hb.trans hbs, hn.trans hlen⟩ hr he⟩

end Sys2Proof.Machine
end

section
/-! The error state of each unit: which commands write it and which leave it (spec/60_exceptions.md, R209), and where
OutOfBounds arises inside PR.DECODE (R202). -/

namespace Sys2Proof.Machine

/-- The ways a command that completes can act on the error state of the two units: `RD_STATUS` of the BR unit, and
`PR_STATUS`, `PR_ERR_A` and `PR_ERR_B` of the PR unit. -/
inductive ErrorStateMove (i : Instr) (s t : State) : Prop
  /-- RD.INIT constructs a fresh reader (R101). -/
  | latch (len : BitVec 10) (hi : i = .rdInit len) (ht : t = s.latch len)
  /-- PR.DECODE leaves `RD_STATUS` (R172). -/
  | decode (refs : BitVec 3) (hi : i = .prDecode refs) (hrd : t.rdStatus = s.rdStatus)
  /-- Another command leaves the PR unit, and leaves `RD_STATUS` or reports a bounds failure in it (R106). -/
  | other (hrd : t.rdStatus = s.rdStatus ∨ t.rdStatus = rdStatusFaulted s.rdStatus)
      (hpr : t.prStatus = s.prStatus ∧ t.prErrA = s.prErrA ∧ t.prErrB = s.prErrB)

/-- What each command does to the error state of the two units. -/
theorem errorStateMove_of_exec {i : Instr} {s t : State} (h : exec i s = .next t) : ErrorStateMove i s t := by
  cases i with
  | rdInit len => exact .latch len rfl (execRdInit_next h).2
  | rdUint wid =>
    obtain ⟨_, _, -, -, ⟨-, rfl⟩ | ⟨-, rfl⟩⟩ := execRdUint_next h
    · exact .other (.inr rfl) ⟨rfl, rfl, rfl⟩
    · exact .other (.inl rfl) ⟨rfl, rfl, rfl⟩
  | rdBuf nby =>
    obtain ⟨_, _, -, -, ⟨-, rfl⟩ | ⟨-, rfl⟩⟩ := execRdBuf_next h
    · exact .other (.inr rfl) ⟨rfl, rfl, rfl⟩
    · exact .other (.inl rfl) ⟨rfl, rfl, rfl⟩
  | rdRem => obtain ⟨_, _, -, rfl⟩ := execRdRem_next h; exact .other (.inl rfl) ⟨rfl, rfl, rfl⟩
  | rdLen => obtain ⟨_, _, -, rfl⟩ := execRdLen_next h; exact .other (.inl rfl) ⟨rfl, rfl, rfl⟩
  | lmLevel val => cases h; exact .other (.inl rfl) ⟨rfl, rfl, rfl⟩
  | lmApply val apn => cases h; exact .other (.inl rfl) ⟨rfl, rfl, rfl⟩
  | lmHashcount val => cases h; exact .other (.inl rfl) ⟨rfl, rfl, rfl⟩
  | crcInit => cases h; exact .other (.inl rfl) ⟨rfl, rfl, rfl⟩
  | crcUpdate byte => obtain ⟨_, -, -, rfl⟩ := execCrcUpdate_next h; exact .other (.inl rfl) ⟨rfl, rfl, rfl⟩
  | crcFinal => obtain ⟨_, -, -, rfl⟩ := execCrcFinal_next h; exact .other (.inl rfl) ⟨rfl, rfl, rfl⟩
  | prDecode refs =>
    obtain ⟨_, _, -, -, ⟨_, -, rfl⟩ | ⟨_, -, rfl⟩⟩ := execPrDecode_next h <;> exact .decode refs rfl rfl

/-- No command but RD.INIT clears FAULT (R209). -/
theorem rdFault_of_exec {i : Instr} {s t : State} (h : exec i s = .next t) (hinit : ∀ len, i ≠ .rdInit len)
    (hfault : rdFault s.rdStatus = true) : rdFault t.rdStatus = true := by
  cases errorStateMove_of_exec h with
  | latch len hi _ => exact absurd hi (hinit len)
  | decode _ _ hrd => rwa [hrd]
  | other hrd _ =>
    obtain hrd | hrd := hrd
    · rwa [hrd]
    · rw [hrd, rdFault_rdStatusFaulted]

/-- No command but PR.DECODE writes the status or the context of the PR unit (R209). -/
theorem prError_of_exec {i : Instr} {s t : State} (h : exec i s = .next t) (hdecode : ∀ refs, i ≠ .prDecode refs) :
    t.prStatus = s.prStatus ∧ t.prErrA = s.prErrA ∧ t.prErrB = s.prErrB := by
  cases errorStateMove_of_exec h with
  | latch _ _ ht => subst ht; exact ⟨rfl, rfl, rfl⟩
  | decode refs hi _ => exact absurd hi (hdecode refs)
  | other _ hpr => exact hpr

/-- PR.DECODE overwrites the status and the context of the one before it (R209), because what it commits does not depend
on them (`prDecodeIsRepeatable`). -/
theorem exec_prDecode_overwrites {refs : BitVec 3} {s t : State} (h : exec (.prDecode refs) s = .next t)
    (st : BitVec 8) (a b : Option (BitVec 16)) :
    exec (.prDecode refs) { s with prStatus := st, prErrA := a, prErrB := b } = .next t := by
  obtain ⟨_, _, ⟨hvalid, -, -⟩, -⟩ := execPrDecode_next h
  obtain ⟨ht, hrepeat⟩ := prDecodeIsRepeatable refs s t h
  exact (hrepeat { s with prStatus := st, prErrA := a, prErrB := b } hvalid rfl rfl).trans (congrArg _ ht.symm)

/-- Settles O30: RD.INIT latches with FAULT 0, and of the other commands each leaves the error state of a unit or is the
one that overwrites it (`ErrorStateMove`). -/
theorem faultLastsUntilRdInit : Obligations.FaultLastsUntilRdInit := by
  unfold Obligations.FaultLastsUntilRdInit
  intro i s t h
  refine ⟨fun hfault hinit => rdFault_of_exec h hinit hfault, ?_, prError_of_exec h, ?_⟩
  · rintro len rfl
    rw [(execRdInit_next h).2, State.latch_rdStatus, rdStatusOf_fresh]
    decide
  · rintro refs rfl
    exact exec_prDecode_overwrites h

theorem codeOf_eq_one_iff (kind : ErrorKind) : codeOf kind = 1#3 ↔ kind = .outOfBounds := by
  cases kind <;> decide

/-- At the size the mask demands, a mask with all the bits below its level decodes: it is 1, 3 or 7 (R182). -/
theorem decodeCell_ok_of_hashCount_eq_level {bs : Bits} {len : Nat} {m : Byte} (htype : uintAt bs 0 8 = 1)
    (hm : m.toNat = uintAt bs 8 8) (hrange : 1 ≤ m.toNat ∧ m.toNat ≤ 7) (hsize : len = 16 + 272 * hashCount m)
    (hcount : hashCount m = level m) : ∃ cell, decodeCell bs len 0 = .ok cell := by
  rw [decodeCell_ok_iff, ← hm, hsize, hcount]
  have hones := (hashCount_eq_level_iff m).mp hcount
  have hlevel := (level_le_three_iff m).mpr hrange.2
  generalize level m = l at hones hlevel
  interval_cases l <;> omega

/-- The decoder runs off the end at the type byte, at the mask byte, or at a hash of a mask with a gap (R202). -/
theorem decodeCell_outOfBounds_cases {bs : Bits} {len refs a b : Nat} {sub : Bool}
    (h : decodeCell bs len refs = .error ⟨.outOfBounds, sub, a, b⟩) :
    (len < 8 ∧ a = 8) ∨ (8 ≤ len ∧ len ≤ 15 ∧ a = 8) ∨
      (len ≠ 280 ∧ a = 256 ∧ ∃ m : Byte, m.toNat = uintAt bs 8 8 ∧ hashCount m < level m ∧ level m ≤ 3 ∧
        len = 16 + 272 * hashCount m) := by
  by_cases hmin : len < 8
  · rw [decodeCell_of_lt_eight hmin] at h
    cases h
    exact .inl ⟨hmin, rfl⟩
  rw [Nat.not_lt] at hmin
  by_cases htype : uintAt bs 0 8 = 1
  case neg => rw [decodeCell_of_type_ne hmin htype] at h; cases h
  by_cases hrefs : refs = 0
  case neg => rw [decodeCell_of_refs_ne hmin htype hrefs] at h; cases h
  subst hrefs
  by_cases hlegacy : len = 280
  · rw [hlegacy, decodeCell_legacy htype] at h
    cases h
  by_cases hlen : len < 16
  · rw [decodeCell_of_lt_sixteen hmin htype hlen] at h
    cases h
    exact .inr (.inl ⟨hmin, Nat.le_of_lt_succ hlen, rfl⟩)
  rw [Nat.not_lt] at hlen
  have hm := byteAt_toNat bs 8
  generalize byteAt bs 8 0 = m at hm
  by_cases hrange : 1 ≤ m.toNat ∧ m.toNat ≤ 7
  case neg => rw [decodeCell_of_level hlen hlegacy htype hm (by omega)] at h; cases h
  by_cases hsize : len = 16 + 272 * hashCount m
  case neg => rw [decodeCell_of_size_ne hlen hlegacy htype hm hrange hsize] at h; cases h
  have hnot : ¬ ∃ cell, decodeCell bs len 0 = .ok cell := by simp [h]
  have hgap : hashCount m < level m := lt_of_le_of_ne (hashCount_le_level m) fun hcount =>
    hnot (decodeCell_ok_of_hashCount_eq_level htype hm hrange hsize hcount)
  obtain ⟨_, he⟩ := (decodeCell_of_size_eq htype hm hrange hsize).resolve_left hnot
  cases h.symm.trans he
  exact .inr (.inr ⟨hlegacy, rfl, m, hm, hgap, (level_le_three_iff m).mpr hrange.2, hsize⟩)

/-- Settles O56: CODE 1 is the OutOfBounds of the decoder, which arises at the three places of
`decodeCell_outOfBounds_cases`. -/
theorem prDecodeOutOfBoundsPlaces : Obligations.PrDecodeOutOfBoundsPlaces := by
  unfold Obligations.PrDecodeOutOfBoundsPlaces
  intro refs s t bs len hl h hcode
  obtain ⟨bs', len', hl', -, hcases⟩ := execPrDecode_next h
  obtain ⟨rfl, rfl⟩ := State.latched_unique hl hl'
  obtain ⟨cell, -, rfl⟩ | ⟨⟨kind, sub, a, b⟩, he, rfl⟩ := hcases
  · rw [State.commitDecode_prStatus, prCode_prStatusOf] at hcode
    cases hcode
  · rw [State.failDecode_prStatus, prCode_prStatusOf, codeOf_eq_one_iff] at hcode
    obtain rfl : kind = .outOfBounds := hcode
    obtain ⟨hlen, rfl⟩ | ⟨hmin, hmax, rfl⟩ | ⟨hlegacy, rfl, hmask⟩ := decodeCell_outOfBounds_cases he
    · exact .inl ⟨hlen, rfl⟩
    · exact .inr (.inl ⟨hmin, hmax, rfl⟩)
    · exact .inr (.inr ⟨hlegacy, rfl, hmask⟩)

end Sys2Proof.Machine
end

section
/-! A checksum goes on after CRC.FINAL, which keeps the register (spec/70_reset_and_hazards.md, R238). -/

namespace Sys2Proof.Machine

theorem crcSteps_append (r : Word) (a b : List Byte) : crcSteps r (a ++ b) = crcSteps (crcSteps r a) b := by
  induction a generalizing r with
  | nil => rfl
  | cons x a ih => exact ih (crcByte r x)

/-- After a run that completes, the commands behind it run from its last state. -/
theorem runInstrs_append_of_next {prog : List Instr} {s t : State} (h : runInstrs prog s = .next t)
    (rest : List Instr) : runInstrs (prog ++ rest) s = runInstrs rest t := by
  induction prog generalizing s with
  | nil => cases h; rfl
  | cons i prog ih =>
    obtain ⟨m, hm, hprog⟩ := runInstrs_cons_next h
    rw [List.cons_append, runInstrs_cons_of_next hm]
    exact ih hprog

/-- CRC.UPDATE of each byte and CRC.FINAL, from a register that the bytes `a` have taken there, make the checksum of `a`
followed by these bytes (R154, R155). -/
theorem runInstrs_crcUpdates_crcFinal (a b : List Byte) (s : State) :
    runInstrs (b.map Instr.crcUpdate ++ [.crcFinal]) (s.startCrc (crcSteps Config.crcInit a)) =
      .next ((s.startCrc (crcSteps Config.crcInit (a ++ b))).setCrcOut (crc32c (a ++ b))) := by
  rw [runInstrs_crcUpdates, ← crcSteps_append]
  rfl

/-- Settles O41: `crc.buf a` ends with the register where the bytes `a` have taken it (`runInstrs_crcBufInstrs`), and the
bytes `b` go on from there. -/
theorem crcFinalDoesNotEndStream : Obligations.CrcFinalDoesNotEndStream := by
  unfold Obligations.CrcFinalDoesNotEndStream
  intro a b s
  have hbuf : runInstrs (crcBufInstrs a) s =
      .next ((s.setCrcOut (crc32c a)).startCrc (crcSteps Config.crcInit a)) := runInstrs_crcBufInstrs a s
  exact ⟨_, (runInstrs_append_of_next hbuf _).trans (runInstrs_crcUpdates_crcFinal a b _), rfl⟩

end Sys2Proof.Machine
end

section
/-! The command map read both ways over the operand fields: the word of a command and the command of a word are inverse
(spec/30_encoding.md, R72, R73 and R76). -/

namespace Sys2Proof

/-- The operand fields of a command word are those it was put together from (R72). -/
theorem commandWord_extractLsb' (unit func : BitVec 4) (fields : BitVec 24) {start len : Nat}
    (h : start + len ≤ 24) : (commandWord unit func fields).extractLsb' start len = fields.extractLsb' start len :=
  BitVec.extractLsb'_append_eq_of_add_le h

/-- A field that stands alone in a command word is read back from its lowest bits (R73). -/
theorem commandWord_field (unit func : BitVec 4) {n : Nat} (v : BitVec n) (h : n ≤ 24) :
    (commandWord unit func (v.setWidth 24)).extractLsb' 0 n = v := by
  have hfit : 0 + n ≤ 24 := by omega
  rw [commandWord_extractLsb' _ _ _ hfit, BitVec.extractLsb'_setWidth_of_le hfit, BitVec.extractLsb'_eq_self]

/-- Both fields of format VA are read back (R73). -/
theorem rowLmApply_read_encode (val : BitVec 8) (apn : BitVec 3) :
    rowLmApply.read (encode (.lmApply val apn)) = .lmApply val apn := by
  have field {start len : Nat} (h : start + len ≤ 11) :
      (encode (.lmApply val apn)).extractLsb' start len = (apn ++ val).extractLsb' start len := by
    have hfit : start + len ≤ 24 := h.trans (by decide)
    rw [encode, commandWord_extractLsb' _ _ _ hfit, BitVec.extractLsb'_setWidth_of_le hfit]
  have hval : (encode (.lmApply val apn)).extractLsb' 0 8 = val :=
    (field (by decide)).trans BitVec.extractLsb'_append_eq_right
  have hapn : (encode (.lmApply val apn)).extractLsb' 8 3 = apn :=
    (field (by decide)).trans BitVec.extractLsb'_append_eq_left
  exact congrArg₂ Instr.lmApply hval hapn

/-- The row of a command reads the command's operands in its word (R73). -/
theorem rowOf_read_encode (i : Instr) : (rowOf i).read (encode i) = i := by
  cases i with
  | rdInit len => exact congrArg Instr.rdInit (commandWord_field _ _ len (by decide))
  | rdUint wid => exact congrArg Instr.rdUint (commandWord_field _ _ wid (by decide))
  | rdBuf nby => exact congrArg Instr.rdBuf (commandWord_field _ _ nby (by decide))
  | rdRem => rfl
  | rdLen => rfl
  | lmLevel val => exact congrArg Instr.lmLevel (commandWord_field _ _ val (by decide))
  | lmApply val apn => exact rowLmApply_read_encode val apn
  | lmHashcount val => exact congrArg Instr.lmHashcount (commandWord_field _ _ val (by decide))
  | crcInit => rfl
  | crcUpdate byte => exact congrArg Instr.crcUpdate (commandWord_field _ _ byte (by decide))
  | crcFinal => rfl
  | prDecode refs => exact congrArg Instr.prDecode (commandWord_field _ _ refs (by decide))

/-- The word of a command matches its row, whatever the operands are (R76). -/
theorem encode_matches_row (i : Instr) : Laws.WordMatchesRow.Statement i := by
  cases i with
  | rdInit len => exact Laws.WordMatchesRow.rdInit len
  | rdUint wid => exact Laws.WordMatchesRow.rdUint wid
  | rdBuf nby => exact Laws.WordMatchesRow.rdBuf nby
  | rdRem => exact Laws.WordMatchesRow.rdRem
  | rdLen => exact Laws.WordMatchesRow.rdLen
  | lmLevel val => exact Laws.WordMatchesRow.lmLevel val
  | lmApply val apn => exact Laws.WordMatchesRow.lmApply val apn
  | lmHashcount val => exact Laws.WordMatchesRow.lmHashcount val
  | crcInit => exact Laws.WordMatchesRow.crcInit
  | crcUpdate byte => exact Laws.WordMatchesRow.crcUpdate byte
  | crcFinal => exact Laws.WordMatchesRow.crcFinal
  | prDecode refs => exact Laws.WordMatchesRow.prDecode refs

/-- Settles O1: the word of a command matches the command's row (`encode_matches_row`), and this row reads the operands
back (`rowOf_read_encode`). -/
theorem decodeEncodeRoundTrip : Obligations.DecodeEncodeRoundTrip := by
  unfold Obligations.DecodeEncodeRoundTrip
  exact fun i => decode_ok_iff.mpr ⟨encode_matches_row i, (rowOf_read_encode i).symm⟩

/-- Two words have the same field exactly when they agree in its bits. -/
theorem extractLsb'_eq_iff {c d : Word} {start len : Nat} :
    c.extractLsb' start len = d.extractLsb' start len ↔
      ∀ k, start ≤ k → k < start + len → c.getLsbD k = d.getLsbD k := by
  constructor
  · intro h k hmin hmax
    have hk : k - start < len := by omega
    have hback : start + (k - start) = k := by omega
    simpa [hk, hback] using congrArg (fun v : BitVec len => v.getLsbD (k - start)) h
  · intro h
    refine BitVec.eq_of_getLsbD_eq fun k hk => ?_
    rw [BitVec.getLsbD_extractLsb', BitVec.getLsbD_extractLsb', h (start + k) (by omega) (by omega)]

/-- How many bits the operand fields of a command's format take, which are the lowest of its word (R73). -/
def Instr.fieldBits : Instr → Nat
  | .rdInit _ => 10
  | .rdUint _ => 6
  | .rdBuf _ => 7
  | .lmLevel _ | .lmHashcount _ | .crcUpdate _ => 8
  | .lmApply _ _ => 11
  | .prDecode _ => 3
  | .rdRem | .rdLen | .crcInit | .crcFinal => 0

/-- How many bits the operand fields of a row's format take (R73). -/
def Row.fieldBits (r : Row) : Nat := (r.read 0#32).fieldBits

/-- The mask of a row has all the bits above the operand fields, and its match has none below `FUNC` (R73, R76). -/
theorem commandMap_bits : ∀ r ∈ commandMap, r.fieldBits ≤ 24 ∧ ∀ k < 32,
    r.mask.getLsbD k = decide (r.fieldBits ≤ k) ∧ (k < 24 → r.pat.getLsbD k = false) := by
  decide

/-- A word is of a row exactly when it agrees with the row's match above the operand fields. -/
theorem Row.hits_iff_bits {r : Row} (hr : r ∈ commandMap) {c : Word} :
    r.hits c = true ↔ ∀ k, r.fieldBits ≤ k → k < 32 → c.getLsbD k = r.pat.getLsbD k := by
  obtain ⟨hmax, hbits⟩ := commandMap_bits r hr
  rw [Row.hits, beq_iff_eq]
  constructor
  · intro h k hfield hk
    rw [← h, BitVec.getLsbD_and, (hbits k hk).1, decide_eq_true hfield, Bool.and_true]
  · intro h
    refine BitVec.eq_of_getLsbD_eq fun k hk => ?_
    rw [BitVec.getLsbD_and, (hbits k hk).1]
    by_cases hfield : r.fieldBits ≤ k
    · simp [hfield, h k hfield hk]
    · simp [hfield, (hbits k hk).2 (by omega)]

/-- Two words of one row with the same operand fields are the same word. -/
theorem Row.hits_ext {r : Row} (hr : r ∈ commandMap) {c d : Word} (hc : r.hits c = true) (hd : r.hits d = true)
    (hfields : c.extractLsb' 0 r.fieldBits = d.extractLsb' 0 r.fieldBits) : c = d := by
  refine BitVec.eq_of_getLsbD_eq fun k hk => ?_
  by_cases hfield : r.fieldBits ≤ k
  · rw [(hits_iff_bits hr).mp hc k hfield hk, (hits_iff_bits hr).mp hd k hfield hk]
  · exact extractLsb'_eq_iff.mp hfields k (Nat.zero_le k) (by omega)

/-- The operands of a command are all the bits of its word's operand fields (R73). -/
theorem rowOf_read_injective {i : Instr} {c d : Word} (h : (rowOf i).read c = (rowOf i).read d) :
    c.extractLsb' 0 (rowOf i).fieldBits = d.extractLsb' 0 (rowOf i).fieldBits := by
  cases i with
  | rdInit len => exact Instr.rdInit.inj h
  | rdUint wid => exact Instr.rdUint.inj h
  | rdBuf nby => exact Instr.rdBuf.inj h
  | rdRem => exact BitVec.eq_of_zero_length rfl
  | rdLen => exact BitVec.eq_of_zero_length rfl
  | lmLevel val => exact Instr.lmLevel.inj h
  | lmApply val apn =>
    obtain ⟨hval, hapn⟩ := Instr.lmApply.inj h
    have hsplit (w : Word) : w.extractLsb' 8 3 ++ w.extractLsb' 0 8 = w.extractLsb' 0 11 :=
      BitVec.extractLsb'_append_extractLsb'_eq_extractLsb' rfl
    exact (hsplit c).symm.trans ((congrArg₂ _ hapn hval).trans (hsplit d))
  | lmHashcount val => exact Instr.lmHashcount.inj h
  | crcInit => exact BitVec.eq_of_zero_length rfl
  | crcUpdate byte => exact Instr.crcUpdate.inj h
  | crcFinal => exact BitVec.eq_of_zero_length rfl
  | prDecode refs => exact Instr.prDecode.inj h

/-- No two words mean the same command (R76). -/
theorem decode_ok_injective {c d : Word} {i : Instr} (hc : decode c = .ok i) (hd : decode d = .ok i) : c = d := by
  obtain ⟨hcpat, hcread⟩ := decode_ok_iff.mp hc
  obtain ⟨hdpat, hdread⟩ := decode_ok_iff.mp hd
  exact Row.hits_ext (rowOf_mem_commandMap i) (beq_iff_eq.mpr hcpat) (beq_iff_eq.mpr hdpat)
    (rowOf_read_injective (hcread.symm.trans hdread))

/-- Settles O2: the word of the command decodes to it too (`decodeEncodeRoundTrip`), and no other word does
(`decode_ok_injective`). -/
theorem encodeDecodeRoundTrip : Obligations.EncodeDecodeRoundTrip := by
  unfold Obligations.EncodeDecodeRoundTrip
  exact fun c i h => decode_ok_injective (decodeEncodeRoundTrip i) h

end Sys2Proof
end

section
/-! Which words are reserved and why (spec/30_encoding.md, R77), and one step, by the host's oldest action (R66). -/

namespace Sys2Proof

/-- The `UNIT` and `FUNC` fields of a word together, which name the command (R72). -/
def opcode (c : Word) : BitVec 8 := c.extractLsb' 24 8

theorem unitField_eq_opcode (c : Word) : unitField c = (opcode c).extractLsb' 4 4 := by
  refine BitVec.eq_of_getLsbD_eq fun k hk => ?_
  have hlow : 4 + k < 8 := by omega
  simp [unitField, opcode, hk, hlow, ← Nat.add_assoc]

theorem funcField_eq_opcode (c : Word) : funcField c = (opcode c).extractLsb' 0 4 :=
  (BitVec.setWidth_extractLsb'_of_le (by decide)).symm.trans (BitVec.setWidth_eq_extractLsb' (by decide))

/-- A word is of a row exactly when it has the row's `UNIT` and `FUNC` and 0 between these and the operand fields (R73,
R76). -/
theorem Row.hits_iff_fields {r : Row} (hr : r ∈ commandMap) {c : Word} :
    r.hits c = true ↔
      opcode c = opcode r.pat ∧ c.extractLsb' r.fieldBits (24 - r.fieldBits) = 0#(24 - r.fieldBits) := by
  obtain ⟨hmax, hbits⟩ := commandMap_bits r hr
  rw [hits_iff_bits hr, opcode, opcode, ← BitVec.extractLsb'_zero, extractLsb'_eq_iff, extractLsb'_eq_iff]
  constructor
  · refine fun h => ⟨fun k hmin hk => h k (by omega) hk, fun k hmin hk => ?_⟩
    rw [h k hmin (by omega), (hbits k (by omega)).2 (by omega), BitVec.getLsbD_zero]
  · rintro ⟨hop, hzero⟩ k hmin hk
    by_cases hlow : k < 24
    · rw [hzero k hmin (by omega), (hbits k hk).2 hlow, BitVec.getLsbD_zero]
    · exact hop k (by omega) (by omega)

/-- The `UNIT` and `FUNC` values of the map are those that leave only a must-be-zero bit as a reason (R76, R77). -/
theorem reservedWhy_eq_mustBeZero_iff (c : Word) :
    reservedWhy c = .mustBeZero ↔ ∃ r ∈ commandMap, opcode c = opcode r.pat := by
  rw [reservedWhy, unitField_eq_opcode, funcField_eq_opcode]
  generalize opcode c = op
  revert op
  decide

/-- A word whose `UNIT` and `FUNC` name no command is reserved, and for that (R77). -/
theorem decode_error_iff_of_ne {c : Word} {why : Reserved} (hwhy : why ≠ .mustBeZero) :
    decode c = .error why ↔ reservedWhy c = why := by
  rw [decode_error_iff]
  refine ⟨fun h => h.2.symm, fun h => ⟨fun r hr => ?_, h.symm⟩⟩
  by_contra hit
  rw [Bool.not_eq_false, Row.hits_iff_fields hr] at hit
  exact hwhy (h.symm.trans ((reservedWhy_eq_mustBeZero_iff c).mpr ⟨r, hr, hit.1⟩))

/-- No two rows have the same `UNIT` and `FUNC` (R76). -/
theorem commandMap_opcode_nodup : (commandMap.map fun r => opcode r.pat).Nodup := by
  decide

/-- A word is reserved for a must-be-zero bit exactly when it has the `UNIT` and `FUNC` of a row and a bit that is 1
between these and the operand fields (R77). -/
theorem decode_error_mustBeZero_iff {c : Word} :
    decode c = .error .mustBeZero ↔ ∃ r ∈ commandMap, opcode c = opcode r.pat ∧
      c.extractLsb' r.fieldBits (24 - r.fieldBits) ≠ 0#(24 - r.fieldBits) := by
  rw [decode_error_iff, eq_comm, reservedWhy_eq_mustBeZero_iff]
  constructor
  · rintro ⟨hmiss, r, hr, hop⟩
    refine ⟨r, hr, hop, fun hzero => ?_⟩
    have hit := (Row.hits_iff_fields hr).mpr ⟨hop, hzero⟩
    simp [hmiss r hr] at hit
  · rintro ⟨r, hr, hop, hne⟩
    refine ⟨fun q hq => ?_, r, hr, hop⟩
    by_contra hit
    rw [Bool.not_eq_false, Row.hits_iff_fields hq] at hit
    obtain rfl : q = r := List.inj_on_of_nodup_map commandMap_opcode_nodup hq hr (hit.1.symm.trans hop)
    exact hne hit.2

/-- The must-be-zero bits of the twelve rows (R73, R77). -/
theorem decode_error_mustBeZero_iff_rows {c : Word} :
    decode c = .error .mustBeZero ↔
      (opcode c = 0x00#8 ∧ c.extractLsb' 10 14 ≠ 0#14) ∨ (opcode c = 0x01#8 ∧ c.extractLsb' 6 18 ≠ 0#18) ∨
      (opcode c = 0x02#8 ∧ c.extractLsb' 7 17 ≠ 0#17) ∨ (opcode c = 0x03#8 ∧ c.extractLsb' 0 24 ≠ 0#24) ∨
      (opcode c = 0x04#8 ∧ c.extractLsb' 0 24 ≠ 0#24) ∨ (opcode c = 0x10#8 ∧ c.extractLsb' 8 16 ≠ 0#16) ∨
      (opcode c = 0x11#8 ∧ c.extractLsb' 11 13 ≠ 0#13) ∨ (opcode c = 0x12#8 ∧ c.extractLsb' 8 16 ≠ 0#16) ∨
      (opcode c = 0x20#8 ∧ c.extractLsb' 0 24 ≠ 0#24) ∨ (opcode c = 0x21#8 ∧ c.extractLsb' 8 16 ≠ 0#16) ∨
      (opcode c = 0x22#8 ∧ c.extractLsb' 0 24 ≠ 0#24) ∨ (opcode c = 0x30#8 ∧ c.extractLsb' 3 21 ≠ 0#21) := by
  rw [decode_error_mustBeZero_iff]
  simp only [commandMap, List.mem_cons, List.not_mem_nil, or_false, exists_eq_or_imp, exists_eq_left]
  exact Iff.rfl

theorem reservedWhy_eq_unit_iff (c : Word) : reservedWhy c = .unit ↔ 4 ≤ (unitField c).toNat := by
  rw [reservedWhy]
  split_ifs with hunit <;> simp [hunit]

/-- The `FUNC` values each assigned `UNIT` leaves unassigned (R76, R77). -/
theorem reservedWhy_eq_func_iff (c : Word) :
    reservedWhy c = .func ↔
      unitField c = 0#4 ∧ 5 ≤ (funcField c).toNat ∨
      (unitField c = 1#4 ∨ unitField c = 2#4) ∧ 3 ≤ (funcField c).toNat ∨
      unitField c = 3#4 ∧ 1 ≤ (funcField c).toNat := by
  rw [reservedWhy]
  generalize unitField c = unit
  generalize funcField c = func
  revert unit func
  decide

end Sys2Proof

namespace Sys2Proof.Machine

section
variable {s : State} {rest : List HostAction}

theorem step_of_nil (h : s.pending = []) : step s = .next s := by
  rw [step, h]; rfl

theorem step_of_reset (h : s.pending = .reset :: rest) : step s = .next (resetBlock (s.withPending rest)) := by
  rw [step, h]

theorem step_of_read {r : RegName} (h : s.pending = .read r :: rest) : step s = serveRead r (s.withPending rest) := by
  rw [step, h]

theorem step_of_command {c : Word} {p : DataPort} (h : s.pending = .command c p :: rest) :
    step s = issue decode exec c p (s.withPending rest) := by
  rw [step, h]

/-- A word that decodes runs its command (R66). -/
theorem step_of_decode_ok {c : Word} {p : DataPort} {i : Instr} (h : s.pending = .command c p :: rest)
    (hc : decode c = .ok i) : step s = exec i ((s.withPending rest).drive p) := by
  rw [step_of_command h, issue, hc]

/-- A reserved word is refused (R77). -/
theorem step_of_decode_error {c : Word} {p : DataPort} {why : Reserved} (h : s.pending = .command c p :: rest)
    (hc : decode c = .error why) : step s = .refused (.reserved why) := by
  rw [step_of_command h, issue, hc]

end

/-- Settles O4: an unassigned `UNIT` or `FUNC` alone makes a word reserved (`decode_error_iff_of_ne`), and the third case
is that of a row's must-be-zero bits (`decode_error_mustBeZero_iff_rows`, which the statement groups by format). -/
theorem reservedWordsRefused : Obligations.ReservedWordsRefused := by
  unfold Obligations.ReservedWordsRefused
  intro c
  refine ⟨?_, ?_, ?_, fun why hc s p rest h => step_of_decode_error h hc⟩
  · exact (decode_error_iff_of_ne (by decide)).trans (reservedWhy_eq_unit_iff c)
  · exact (decode_error_iff_of_ne (by decide)).trans (reservedWhy_eq_func_iff c)
  · refine decode_error_mustBeZero_iff_rows.trans (Iff.of_eq ?_)
    simp only [opcode, or_and_right]
    ac_rfl

/-- Settles O5: each word is looked up in the map. -/
theorem specWordsDecode : Obligations.SpecWordsDecode := by
  unfold Obligations.SpecWordsDecode
  decide

/-- Settles O6: `step_of_decode_ok`, the state written out field by field. -/
theorem stepRunsDecodedCommand : Obligations.StepRunsDecodedCommand := by
  unfold Obligations.StepRunsDecodedCommand
  exact fun _ _ _ _ _ h hc => step_of_decode_ok h hc

/-- Settles O7: with an empty queue a step is a wait (`step_of_nil`). -/
theorem waitingChangesNothing : Obligations.WaitingChangesNothing := by
  unfold Obligations.WaitingChangesNothing
  exact fun _ h => step_of_nil h

/-- Settles O11: a reset is `resetBlock` on the state without the action (`step_of_reset`), and that writes the value of
`State.reset` into all but the host's side. -/
theorem resetEventSetsResetValues : Obligations.ResetEventSetsResetValues := by
  unfold Obligations.ResetEventSetsResetValues
  exact fun _ _ h => step_of_reset h

end Sys2Proof.Machine
end

section
/-! What a PR.DECODE that completes leaves in the PR unit (spec/43_pruned_decoder.md, R178 to R180; spec/10_state.md, R31
to R36). -/

namespace Sys2Proof.Machine

section
variable (s : State)

theorem State.commitDecode_prHash_getElem (m : Byte) (l : Nat) (h : List Hash) (d : List (BitVec 16))
    (i : Fin 3) : (s.commitDecode m l h d).prHash[i] = h[i.val]? := by
  fin_cases i <;> rfl

theorem State.commitDecode_prDepth_getElem (m : Byte) (l : Nat) (h : List Hash) (d : List (BitVec 16))
    (i : Fin 3) : (s.commitDecode m l h d).prDepth[i] = d[i.val]? := by
  fin_cases i <;> rfl

theorem State.failDecode_prHash_getElem (kind : ErrorKind) (sub : Bool) (a b : Nat) (i : Fin 3) :
    (s.failDecode kind sub a b).prHash[i] = none := by
  fin_cases i <;> rfl

theorem State.failDecode_prDepth_getElem (kind : ErrorKind) (sub : Bool) (a b : Nat) (i : Fin 3) :
    (s.failDecode kind sub a b).prDepth[i] = none := by
  fin_cases i <;> rfl

/-- The four cells the decoder accepts leave their mask, its level and that many entries (R179, R182). -/
theorem State.commitDecode_prInv {bs : Bits} {len refs : Nat} {cell : Cell} (h : decodeCell bs len refs = .ok cell) :
    (s.commitDecode cell.mask cell.level cell.hashes cell.depths).prInv = true := by
  obtain ⟨-, -, -, ⟨-, rfl⟩ | ⟨-, -, rfl⟩ | ⟨-, -, rfl⟩ | ⟨-, -, rfl⟩⟩ := decodeCell_ok_cases h <;>
    simp [State.prInv, firstEntries, prDone, prCode]

/-- Only a wrong length sets SUB (R180, R203). -/
theorem kind_of_decodeCell_sub {bs : Bits} {len refs : Nat} {e : GateError} (h : decodeCell bs len refs = .error e)
    (hsub : e.sub = true) : e.kind = .invalidStructure := by
  obtain ⟨-, rfl⟩ | ⟨-, -, rfl⟩ | ⟨-, -, -, rfl⟩ | ⟨-, -, -, -, ⟨-, rfl⟩ | ⟨-, -, rfl⟩ | ⟨-, -, -, -, rfl⟩ |
    ⟨-, -, rfl⟩ | ⟨-, -, rfl⟩⟩ := decodeCell_error_cases h
  case inr.inr.inr.inr.inr.inl => rfl
  all_goals cases hsub

/-- A failure leaves its code and context and no result (R180). -/
theorem State.failDecode_prInv {kind : ErrorKind} {sub : Bool} (hsub : sub = true → kind = .invalidStructure)
    (a b : Nat) : (s.failDecode kind sub a b).prInv = true := by
  cases sub with
  | true => rw [hsub rfl]; simp [State.prInv, State.prCleared, firstEntries, prDone, prCode]
  | false => cases kind <;> simp [State.prInv, State.prCleared, firstEntries, prDone, prCode]

end

/-- PR.DECODE leaves the registers of the PR unit in agreement, from every state (R31 to R36). -/
theorem execPrDecode_prInv {refs : BitVec 3} {s t : State} (h : execPrDecode refs s = .next t) : t.prInv = true := by
  obtain ⟨_, _, -, -, ⟨cell, hc, rfl⟩ | ⟨e, he, rfl⟩⟩ := execPrDecode_next h
  · exact s.commitDecode_prInv hc
  · exact s.failDecode_prInv (kind_of_decodeCell_sub he) e.a e.b

@[simp] theorem prDone_prStatusOf : ∀ (code : BitVec 3) (sub : Bool), prDone (prStatusOf code sub) = true := by decide

/-- Settles O53: the PR invariant holds after either outcome (`execPrDecode_prInv`), CODE is 0 after a success, and a
failure clears every result register. -/
theorem prDecodeLeavesNoPartialResult : Obligations.PrDecodeLeavesNoPartialResult := by
  unfold Obligations.PrDecodeLeavesNoPartialResult
  intro refs s t h
  have hinv := execPrDecode_prInv h
  obtain ⟨_, _, -, -, ⟨cell, -, rfl⟩ | ⟨e, -, rfl⟩⟩ := execPrDecode_next h
  · exact ⟨prDone_prStatusOf _ _, hinv, fun hcode => absurd (prCode_prStatusOf _ _) hcode⟩
  · exact ⟨prDone_prStatusOf _ _, hinv, fun _ => ⟨rfl, rfl, rfl, rfl, fun i =>
      ⟨s.failDecode_prHash_getElem .., s.failDecode_prDepth_getElem ..⟩⟩⟩

/-- The decoder over a cell of the normal layout with the mask of level `l`: `l` hashes, then `l` depths (R81, R178). -/
theorem decodeCell_normal {bs : Bits} {m : Byte} {l : Nat} (hml : (m, l) ∈ [(1#8, 1), (3#8, 2), (7#8, 3)])
    (htype : uintAt bs 0 8 = 1) (hm : m.toNat = uintAt bs 8 8) :
    decodeCell bs (16 + 272 * l) 0 = .ok ⟨m, l, (List.range l).map fun i => hashAt bs (16 + 256 * i),
      (List.range l).map fun i => depthAt bs (16 + 256 * l + 16 * i), 16 + 272 * l⟩ := by
  have counts : hashCount 1#8 = 1 ∧ hashCount 3#8 = 2 ∧ hashCount 7#8 = 3 := by decide
  simp only [List.mem_cons, List.not_mem_nil, or_false, Prod.mk.injEq] at hml
  obtain ⟨rfl, rfl⟩ | ⟨rfl, rfl⟩ | ⟨rfl, rfl⟩ := hml <;>
    simp [decodeCell_eq, htype, byteAt_eq_of_toNat hm, counts, List.range_succ]

/-- Settles O50: the decoder gives the cell of `decodeCell_normal`, entry `i` of each list is committed as entry `i` of
the registers, and its bits are those of `hashAt_getLsbD` and `depthAt_getLsbD`. -/
theorem prDecodeNormalLayout : Obligations.PrDecodeNormalLayout := by
  unfold Obligations.PrDecodeNormalLayout
  intro s bs len m l hl hml hlen htype hm
  have hcell := decodeCell_normal hml htype hm
  rw [← hlen] at hcell
  refine ⟨_, exec_prDecode_zero_of_ok hl hcell, prStatusOf_success, rfl, rfl, rfl, rfl, fun i hi => ?_, fun i hi => ?_,
    rfl⟩
  · refine ⟨hashAt bs (16 + 256 * i.val), depthAt bs (16 + 256 * l + 16 * i.val), ?_, ?_,
      fun j k hk => hashAt_getLsbD bs _ j hk, fun k hk => depthAt_getLsbD bs _ hk⟩
    · rw [State.commitDecode_prHash_getElem]
      simp [hi]
    · rw [State.commitDecode_prDepth_getElem]
      simp [hi]
  · rw [State.commitDecode_prHash_getElem, State.commitDecode_prDepth_getElem]
    simp [hi]

end Sys2Proof.Machine
end

section
/-! The invariant of the block: which commands write which register (spec/10_state.md, R21 to R35), and that every step
keeps the registers of each unit in agreement (R21 to R36). -/

namespace Sys2Proof.Machine

/-- Settles O31: what each command that completes has done (the `_next` lemmas), read off field by field. -/
theorem onlyNamedCommandsWrite : Obligations.OnlyNamedCommandsWrite := by
  unfold Obligations.OnlyNamedCommandsWrite
  intro i s t h
  cases i with
  | rdInit len => obtain ⟨-, rfl⟩ := execRdInit_next h; simp
  | rdUint wid => obtain ⟨_, _, -, -, ⟨-, rfl⟩ | ⟨-, rfl⟩⟩ := execRdUint_next h <;> simp
  | rdBuf nby => obtain ⟨_, _, -, -, ⟨-, rfl⟩ | ⟨-, rfl⟩⟩ := execRdBuf_next h <;> simp
  | rdRem => obtain ⟨_, _, -, rfl⟩ := execRdRem_next h; simp
  | rdLen => obtain ⟨_, _, -, rfl⟩ := execRdLen_next h; simp
  | lmLevel val => cases h; simp
  | lmApply val apn => cases h; simp
  | lmHashcount val => cases h; simp
  | crcInit => cases h; simp
  | crcUpdate byte => obtain ⟨_, -, -, rfl⟩ := execCrcUpdate_next h; simp
  | crcFinal => obtain ⟨_, -, -, rfl⟩ := execCrcFinal_next h; simp
  | prDecode refs => obtain ⟨_, _, -, -, ⟨_, -, rfl⟩ | ⟨_, -, rfl⟩⟩ := execPrDecode_next h <;> simp

/-! ## The BR unit -/

section
variable {s : State} {bs : Bits} {len : BitVec 10}

/-- What the invariant says of the reader where the BitString registers hold values (R21 to R25). -/
theorem State.brInv_iff_of_some (hbs : s.bs = some bs) (hlen : s.bsLen = some len) :
    s.brInv = true ↔ s.cur.toNat ≤ len.toNat ∧ firstBits len.toNat bs = bs ∧
      (s.rdStatus = 0x01#8 ∧ s.rdErrA = none ∧ s.rdErrB = none ∨
        s.rdStatus = 0x07#8 ∧ s.rdErrB = some (context (remaining len s.cur)) ∧
          ∃ w, s.rdErrA = some w ∧ remaining len s.cur < w.toNat) := by
  simp [State.brInv, hbs, hlen, Option.any_eq_true, and_assoc]

/-- Under the invariant VALID says that a BitString is latched (R24). -/
theorem State.exists_latched (hs : s.brInv = true) (hv : rdValid s.rdStatus = true) : ∃ bs len, s.latched bs len := by
  cases hbs : s.bs <;> cases hlen : s.bsLen <;> simp only [State.brInv, hbs, hlen] at hs
  case some.some bs len => exact ⟨bs, len, hv, hbs, hlen⟩
  case none.none =>
    simp only [Bool.and_eq_true, beq_iff_eq] at hs
    obtain ⟨⟨⟨hst, -⟩, -⟩, -⟩ := hs
    rw [hst] at hv
    cases hv
  all_goals cases hs

/-- Under the invariant a reader that has not failed has no error context (R24, R25). -/
theorem State.readable_fresh (hs : s.brInv = true) (hr : s.readable bs len) :
    firstBits len.toNat bs = bs ∧ s.rdStatus = 0x01#8 ∧ s.rdErrA = none ∧ s.rdErrB = none := by
  obtain ⟨⟨-, hbs, hlen⟩, hf⟩ := hr
  obtain ⟨-, hplaces, hok | ⟨hst, -⟩⟩ := (brInv_iff_of_some hbs hlen).mp hs
  · exact ⟨hplaces, hok⟩
  · rw [hst] at hf
    cases hf

theorem firstBits_firstBits (n : Nat) (v : Bits) : firstBits n (firstBits n v) = firstBits n v := by
  refine BitVec.eq_of_getLsbD_eq fun k _ => ?_
  simp [firstBits_getLsbD]

theorem State.latch_brInv (s : State) (len : BitVec 10) : (s.latch len).brInv = true := by
  rw [brInv_iff_of_some (State.latch_bs ..) (State.latch_bsLen ..)]
  exact ⟨Nat.zero_le _, firstBits_firstBits _ _, .inl ⟨rdStatusOf_fresh, rfl, rfl⟩⟩

/-- A read whose bits remain leaves the cursor within the BitString (R107). -/
theorem State.advance_brInv (hs : s.brInv = true) (hr : s.readable bs len) {w : Nat}
    (hfit : s.cur.toNat + w ≤ len.toNat) : (s.advance w).brInv = true := by
  obtain ⟨hplaces, hok⟩ := readable_fresh hs hr
  rw [brInv_iff_of_some (s := s.advance w) hr.1.2.1 hr.1.2.2, State.advance_cur_toNat s hfit]
  exact ⟨hfit, hplaces, .inl hok⟩

/-- A bounds failure leaves status 0x07 and the context of a read that asked for more than remains (R24, R25, R106). -/
theorem State.reportOutOfBounds_brInv (hs : s.brInv = true) (hr : s.readable bs len) {w : Nat}
    (hlt : remaining len s.cur < w) (hw : w < 2 ^ 16) : (s.reportOutOfBounds w (remaining len s.cur)).brInv = true := by
  obtain ⟨-, hbs, hlen⟩ := hr.1
  obtain ⟨hplaces, hst, -⟩ := readable_fresh hs hr
  have hcur := ((brInv_iff_of_some hbs hlen).mp hs).1
  have hasked : (context w).toNat = w := by rw [context, BitVec.toNat_ofNat, Nat.mod_eq_of_lt hw]
  rw [brInv_iff_of_some (s := s.reportOutOfBounds w (remaining len s.cur)) hbs hlen, State.reportOutOfBounds_rdStatus,
    hst]
  exact ⟨hcur, hplaces, .inr ⟨rfl, rfl, context w, rfl, hasked.symm ▸ hlt⟩⟩

/-- The BR invariant speaks of six registers only. -/
theorem State.brInv_congr {t : State} (hbs : t.bs = s.bs) (hlen : t.bsLen = s.bsLen) (hcur : t.cur = s.cur)
    (hst : t.rdStatus = s.rdStatus) (ha : t.rdErrA = s.rdErrA) (hb : t.rdErrB = s.rdErrB) : t.brInv = s.brInv := by
  simp only [State.brInv, hbs, hlen, hcur, hst, ha, hb]

end

theorem execRdUint_brInv {wid : BitVec 6} {s t : State} (hs : s.brInv = true) (h : execRdUint wid s = .next t) :
    t.brInv = true := by
  obtain ⟨bs, len, hr, hw, ⟨hlt, rfl⟩ | ⟨hrem, rfl⟩⟩ := execRdUint_next h
  · exact State.reportOutOfBounds_brInv hs hr hlt (wid.isLt.trans (by decide))
  · exact State.advance_brInv hs hr (cur_add_le_of_le_remaining (widthAdmitted_iff.mp hw).1 hrem)

theorem execRdBuf_brInv {nby : BitVec 7} {s t : State} (hs : s.brInv = true) (h : execRdBuf nby s = .next t) :
    t.brInv = true := by
  obtain ⟨bs, len, hr, hn, ⟨hlt, rfl⟩ | ⟨hrem, rfl⟩⟩ := execRdBuf_next h
  · have hw : bufferBits nby < 2 ^ 16 := by rw [bufferBits]; omega
    exact State.reportOutOfBounds_brInv hs hr hlt hw
  · exact State.advance_brInv hs hr (cur_add_le_of_le_remaining (one_le_bufferBits hn) hrem)

/-- Every command keeps the BR invariant; the commands other than RD.INIT and the two reads write none of its
registers. -/
theorem exec_brInv {i : Instr} {s t : State} (hs : s.brInv = true) (h : exec i s = .next t) : t.brInv = true := by
  obtain ⟨hlatch, hreader, -⟩ := onlyNamedCommandsWrite i s t h
  cases i with
  | rdInit len => rw [(execRdInit_next h).2]; exact s.latch_brInv len
  | rdUint wid => exact execRdUint_brInv hs h
  | rdBuf nby => exact execRdBuf_brInv hs h
  | _ =>
    obtain ⟨hbs, hlen⟩ := hlatch nofun
    obtain ⟨hcur, hst, ha, hb⟩ := hreader nofun nofun nofun
    exact (State.brInv_congr hbs hlen hcur hst ha hb).trans hs

/-! ## The result buffer, the CRC unit and the PR unit -/

/-- RD.BUF leaves 1 to 127 bytes and their number, or clears both registers (R27). -/
theorem execRdBuf_obufInv {nby : BitVec 7} {s t : State} (h : execRdBuf nby s = .next t) : t.obufInv = true := by
  obtain ⟨bs, len, -, hn, ⟨-, rfl⟩ | ⟨-, rfl⟩⟩ := execRdBuf_next h
  · rfl
  · have hmin := bytesAdmitted_iff.mp hn
    simp [State.obufInv, hmin]

theorem exec_obufInv {i : Instr} {s t : State} (hs : s.obufInv = true) (h : exec i s = .next t) : t.obufInv = true := by
  obtain ⟨-, -, -, hframe, -⟩ := onlyNamedCommandsWrite i s t h
  cases i with
  | rdBuf nby => exact execRdBuf_obufInv h
  | _ =>
    obtain ⟨hobuf, hlen⟩ := hframe nofun
    rwa [State.obufInv, hobuf, hlen]

theorem exec_crcInv {i : Instr} {s t : State} (hs : s.crcInv = true) (h : exec i s = .next t) : t.crcInv = true := by
  obtain ⟨-, -, -, -, hreg, hvalid, hout, -⟩ := onlyNamedCommandsWrite i s t h
  cases i with
  | crcInit => cases h; rfl
  | crcUpdate byte => obtain ⟨r, hv, -, rfl⟩ := execCrcUpdate_next h; exact hv
  | crcFinal =>
    obtain ⟨r, hv, hr, rfl⟩ := execCrcFinal_next h
    simp [State.crcInv, hr, hv]
  | _ => rwa [State.crcInv, hreg nofun nofun, hvalid nofun, hout nofun]

theorem exec_prInv {i : Instr} {s t : State} (hs : s.prInv = true) (h : exec i s = .next t) : t.prInv = true := by
  obtain ⟨-, -, -, -, -, -, -, hframe, -⟩ := onlyNamedCommandsWrite i s t h
  cases i with
  | prDecode refs => exact execPrDecode_prInv h
  | _ =>
    obtain ⟨hst, ha, hb, hmask, hlevel, hhash, hdepth⟩ := hframe nofun
    rwa [State.prInv, State.prCleared, hst, ha, hb, hmask, hlevel, hhash, hdepth]

/-! ## The whole block -/

theorem State.inv_iff {s : State} :
    s.inv = true ↔ s.brInv = true ∧ s.obufInv = true ∧ s.crcInv = true ∧ s.prInv = true := by
  simp [State.inv, and_assoc]

/-- Every command keeps the invariant of the block. -/
theorem exec_inv {i : Instr} {s t : State} (hs : s.inv = true) (h : exec i s = .next t) : t.inv = true := by
  obtain ⟨hbr, hobuf, hcrc, hpr⟩ := State.inv_iff.mp hs
  exact State.inv_iff.mpr ⟨exec_brInv hbr h, exec_obufInv hobuf h, exec_crcInv hcrc h, exec_prInv hpr h⟩

/-- Settles O57: nothing is latched, read, summed or decoded at reset, and every unit's registers say so. -/
theorem invariantHoldsAtReset : Obligations.InvariantHoldsAtReset := by
  unfold Obligations.InvariantHoldsAtReset
  decide

/-- Settles O58: a reset gives the reset values, waiting and a register read touch no register the invariant speaks of, and
every command keeps it (`exec_inv`). -/
theorem stepKeepsInvariant : Obligations.StepKeepsInvariant := by
  unfold Obligations.StepKeepsInvariant
  intro s t hs h
  obtain ⟨-, rfl⟩ | ⟨rest, -, rfl⟩ | ⟨r, rest, v, -, -, rfl⟩ | ⟨c, p, rest, i, -, -, hexec⟩ := step_next_cases h
  · exact hs
  · exact invariantHoldsAtReset
  · exact hs
  · exact exec_inv (s := (s.withPending rest).drive p) hs hexec

end Sys2Proof.Machine
end

section
/-! When a command completes and why it is refused (spec/60_exceptions.md, R205 and R206), and the states right after
reset (spec/70_reset_and_hazards.md, R232). -/

namespace Sys2Proof.Machine

/-! ## Under the invariant no precondition faults -/

section
variable {s : State} {f : Fault}

/-- Under the invariant `CRC_VALID` says that `CRC_REG` holds a value (R29). -/
theorem State.exists_crcReg (hs : s.crcInv = true) (hv : s.crcValid = true) : ∃ r, s.crcReg = some r := by
  cases hr : s.crcReg with
  | none => simp [State.crcInv, hr, hv] at hs
  | some r => exact ⟨r, rfl⟩

theorem withBitString_ne_fault (hs : s.brInv = true) {k : Bits → BitVec 10 → Result}
    (hk : ∀ bs len, k bs len ≠ .fault f) : withBitString s k ≠ .fault f := by
  cases hv : rdValid s.rdStatus with
  | false => rw [withBitString_not_valid hv]; nofun
  | true =>
    obtain ⟨bs, len, hl⟩ := State.exists_latched hs hv
    rw [withBitString_latched hl]
    exact hk bs len

theorem withLiveReader_ne_fault (hs : s.brInv = true) {k : Bits → BitVec 10 → Result}
    (hk : ∀ bs len, k bs len ≠ .fault f) : withLiveReader s k ≠ .fault f := by
  refine withBitString_ne_fault hs fun bs len => ?_
  split
  · nofun
  · exact hk bs len

theorem withCrc_ne_fault (hs : s.crcInv = true) {k : Word → Result} (hk : ∀ r, k r ≠ .fault f) :
    withCrc s k ≠ .fault f := by
  cases hv : s.crcValid with
  | false => rw [withCrc_not_valid hv]; nofun
  | true =>
    obtain ⟨r, hr⟩ := State.exists_crcReg hs hv
    rw [withCrc_valid hv hr]
    exact hk r

end

/-- No command faults under the invariant: only a precondition could, and none does. -/
theorem exec_ne_fault {i : Instr} {s : State} (hs : s.inv = true) (f : Fault) : exec i s ≠ .fault f := by
  obtain ⟨hbr, -, hcrc, -⟩ := State.inv_iff.mp hs
  cases i with
  | rdInit len => rw [exec, execRdInit]; split <;> nofun
  | rdUint wid => exact withLiveReader_ne_fault hbr fun _ _ => by split_ifs <;> simp
  | rdBuf nby => exact withLiveReader_ne_fault hbr fun _ _ => by split_ifs <;> simp
  | rdRem => exact withLiveReader_ne_fault hbr fun _ _ => nofun
  | rdLen => exact withBitString_ne_fault hbr fun _ _ => nofun
  | lmLevel val => nofun
  | lmApply val apn => nofun
  | lmHashcount val => nofun
  | crcInit => nofun
  | crcUpdate byte => exact withCrc_ne_fault hcrc fun _ => nofun
  | crcFinal => exact withCrc_ne_fault hcrc fun _ => nofun
  | prDecode refs =>
    refine withBitString_ne_fault hbr fun bs len => ?_
    split
    · cases decodeCell bs len.toNat refs.toNat <;> nofun
    · nofun

/-- Settles O59: a wait and a reset answer a next state, a register read a value or a refusal, and no command faults
(`exec_ne_fault`). -/
theorem noStepFaults : Obligations.NoStepFaults := by
  unfold Obligations.NoStepFaults
  intro s f hs
  cases hp : s.pending with
  | nil => rw [step_of_nil hp]; nofun
  | cons a rest =>
    cases a with
    | reset => rw [step_of_reset hp]; nofun
    | read r => rw [step_of_read hp, serveRead]; split <;> nofun
    | command c p =>
      cases hc : decode c with
      | ok i => rw [step_of_decode_ok hp hc]; exact exec_ne_fault (s := (s.withPending rest).drive p) hs f
      | error why => rw [step_of_decode_error hp hc]; nofun

/-! ## When a command completes -/

theorem execRdInit_of_stable {len : BitVec 10} {s : State} (h : ∀ i < len.toNat, s.port.moving.getLsbD i = false) :
    execRdInit len s = .next (s.latch len) := by
  rw [execRdInit, if_pos ((portStable_iff _ _).mpr h)]

theorem execRdInit_completes_iff {len : BitVec 10} {s : State} :
    (∃ t, execRdInit len s = .next t) ↔ ∀ j < len.toNat, s.port.moving.getLsbD j = false :=
  ⟨fun ⟨_, h⟩ => (portStable_iff _ _).mp (execRdInit_next h).1, fun h => ⟨_, execRdInit_of_stable h⟩⟩

section
variable {s : State}

/-- RD.UINT completes, with a result or with a bounds failure, whenever it is not refused (R102, R106). -/
theorem execRdUint_completes_iff {wid : BitVec 6} (hs : s.brInv = true) :
    (∃ t, execRdUint wid s = .next t) ↔
      rdValid s.rdStatus = true ∧ rdFault s.rdStatus = false ∧ 1 ≤ wid.toNat ∧ wid.toNat ≤ 32 := by
  constructor
  · rintro ⟨t, h⟩
    obtain ⟨_, _, ⟨⟨hv, -, -⟩, hf⟩, hw, -⟩ := execRdUint_next h
    exact ⟨hv, hf, widthAdmitted_iff.mp hw⟩
  · rintro ⟨hv, hf, hw⟩
    obtain ⟨bs, len, hl⟩ := State.exists_latched hs hv
    have hadm := widthAdmitted_iff.mpr hw
    by_cases hfit : s.cur.toNat + wid.toNat ≤ len.toNat
    · exact ⟨_, execRdUint_of_fits ⟨hl, hf⟩ hadm hfit⟩
    · exact ⟨_, execRdUint_of_not_fits ⟨hl, hf⟩ hadm (Nat.lt_of_not_le hfit)⟩

/-- RD.BUF completes, with a buffer or with a bounds failure, whenever it is not refused (R103, R106). -/
theorem execRdBuf_completes_iff {nby : BitVec 7} (hs : s.brInv = true) :
    (∃ t, execRdBuf nby s = .next t) ↔
      rdValid s.rdStatus = true ∧ rdFault s.rdStatus = false ∧ 1 ≤ nby.toNat := by
  constructor
  · rintro ⟨t, h⟩
    obtain ⟨_, _, ⟨⟨hv, -, -⟩, hf⟩, hn, -⟩ := execRdBuf_next h
    exact ⟨hv, hf, bytesAdmitted_iff.mp hn⟩
  · rintro ⟨hv, hf, hn⟩
    obtain ⟨bs, len, hl⟩ := State.exists_latched hs hv
    have hadm := bytesAdmitted_iff.mpr hn
    by_cases hfit : s.cur.toNat + bufferBits nby ≤ len.toNat
    · exact ⟨_, execRdBuf_of_fits ⟨hl, hf⟩ hadm hfit⟩
    · exact ⟨_, execRdBuf_of_not_fits ⟨hl, hf⟩ hadm (Nat.lt_of_not_le hfit)⟩

theorem execRdRem_completes_iff (hs : s.brInv = true) :
    (∃ t, execRdRem s = .next t) ↔ rdValid s.rdStatus = true ∧ rdFault s.rdStatus = false := by
  constructor
  · rintro ⟨t, h⟩
    obtain ⟨_, _, ⟨⟨hv, -, -⟩, hf⟩, -⟩ := execRdRem_next h
    exact ⟨hv, hf⟩
  · rintro ⟨hv, hf⟩
    obtain ⟨bs, len, hl⟩ := State.exists_latched hs hv
    exact ⟨_, execRdRem_readable ⟨hl, hf⟩⟩

theorem execRdLen_completes_iff (hs : s.brInv = true) :
    (∃ t, execRdLen s = .next t) ↔ rdValid s.rdStatus = true := by
  constructor
  · rintro ⟨t, h⟩
    obtain ⟨_, _, ⟨hv, -, -⟩, -⟩ := execRdLen_next h
    exact hv
  · intro hv
    obtain ⟨bs, len, hl⟩ := State.exists_latched hs hv
    exact ⟨_, execRdLen_latched hl⟩

theorem execCrcUpdate_completes_iff {byte : BitVec 8} (hs : s.crcInv = true) :
    (∃ t, execCrcUpdate byte s = .next t) ↔ s.crcValid = true := by
  constructor
  · rintro ⟨t, h⟩
    obtain ⟨_, hv, -⟩ := execCrcUpdate_next h
    exact hv
  · intro hv
    obtain ⟨r, hr⟩ := State.exists_crcReg hs hv
    exact ⟨_, withCrc_valid hv hr _⟩

theorem execCrcFinal_completes_iff (hs : s.crcInv = true) :
    (∃ t, execCrcFinal s = .next t) ↔ s.crcValid = true := by
  constructor
  · rintro ⟨t, h⟩
    obtain ⟨_, hv, -⟩ := execCrcFinal_next h
    exact hv
  · intro hv
    obtain ⟨r, hr⟩ := State.exists_crcReg hs hv
    exact ⟨_, withCrc_valid hv hr _⟩

/-- PR.DECODE completes, with a cell or with an error, whenever it is not refused (R171). -/
theorem execPrDecode_completes_iff {refs : BitVec 3} (hs : s.brInv = true) :
    (∃ t, execPrDecode refs s = .next t) ↔ rdValid s.rdStatus = true ∧ refs.toNat ≤ 4 := by
  constructor
  · rintro ⟨t, h⟩
    obtain ⟨_, _, ⟨hv, -, -⟩, hr, -⟩ := execPrDecode_next h
    exact ⟨hv, refsAdmitted_iff.mp hr⟩
  · rintro ⟨hv, hr⟩
    obtain ⟨bs, len, hl⟩ := State.exists_latched hs hv
    obtain ⟨-, -, hcompletes⟩ := prDecodePreconditions refs s
    exact hcompletes bs len hl hr

end

/-- Settles O60: the `_completes_iff` lemma of each command that has a precondition; the others have none. -/
theorem commandsCompleteExactly : Obligations.CommandsCompleteExactly := by
  unfold Obligations.CommandsCompleteExactly
  intro i s hs
  obtain ⟨hbr, -, hcrc, -⟩ := State.inv_iff.mp hs
  cases i with
  | rdInit len => exact execRdInit_completes_iff
  | rdUint wid => exact execRdUint_completes_iff hbr
  | rdBuf nby => exact execRdBuf_completes_iff hbr
  | rdRem => exact execRdRem_completes_iff hbr
  | rdLen => exact execRdLen_completes_iff hbr
  | lmLevel val => exact iff_of_true ⟨_, rfl⟩ trivial
  | lmApply val apn => exact iff_of_true ⟨_, rfl⟩ trivial
  | lmHashcount val => exact iff_of_true ⟨_, rfl⟩ trivial
  | crcInit => exact iff_of_true ⟨_, rfl⟩ trivial
  | crcUpdate byte => exact execCrcUpdate_completes_iff hcrc
  | crcFinal => exact execCrcFinal_completes_iff hcrc
  | prDecode refs => exact execPrDecode_completes_iff hbr

/-! ## RD.INIT and the bounds failure of a read -/

/-- Settles O16: a wire that moves below `LEN` is one the latch takes (`portStable_iff`). -/
theorem rdInitRefusesMovingPort : Obligations.RdInitRefusesMovingPort := by
  unfold Obligations.RdInitRefusesMovingPort
  intro len s i hi hmoves
  refine if_neg fun hstable => ?_
  rw [(portStable_iff _ _).mp hstable i hi] at hmoves
  cases hmoves

/-- What is latched depends on the wires below `len` only (R22, R101). -/
theorem firstBits_congr {n : Nat} {v w : Bits} (h : ∀ i < n, v.getLsbD i = w.getLsbD i) :
    firstBits n v = firstBits n w := by
  refine BitVec.eq_of_getLsbD_eq fun i _ => ?_
  rw [firstBits_getLsbD, firstBits_getLsbD]
  by_cases hi : i < n
  · rw [h i hi]
  · simp [hi]

/-- Settles O15: RD.INIT latches (`execRdInit_of_stable`); a port with the same wires below `LEN` is stable there too and
gives the same bits (`firstBits_congr`). -/
theorem rdInitLatchesThePort : Obligations.RdInitLatchesThePort := by
  unfold Obligations.RdInitLatchesThePort
  intro len s hstable
  refine ⟨s.latch len, firstBits len.toNat s.port.level, execRdInit_of_stable hstable, rfl, fun i hi => ?_, ?_,
    fun q hq => ?_⟩
  · simp [firstBits_getLsbD, hi]
  · rw [← rdStatusOf_fresh]; rfl
  · have hstable' : ∀ i < len.toNat, q.moving.getLsbD i = false := fun i hi => (hq i hi).2.trans (hstable i hi)
    have hbits : firstBits len.toNat q.level = firstBits len.toNat s.port.level := firstBits_congr fun i hi => (hq i hi).1
    refine (execRdInit_of_stable (s := s.drive q) hstable').trans ?_
    rw [State.latch, State.drive_port, hbits]
    rfl

/-- Settles O19: the read does not fit, so it reports OutOfBounds (`execRdUint_of_not_fits`, `execRdBuf_of_not_fits`), and
the status it leaves is that of `rdStatusFaulted_eq`. -/
theorem boundsFailureIsReported : Obligations.BoundsFailureIsReported := by
  unfold Obligations.BoundsFailureIsReported
  intro s bs len hread hcur
  rw [← rdStatusFaulted_eq]
  refine ⟨fun wid hmin hmax hlt => ?_, fun nby hmin hlt => ?_⟩
  · exact execRdUint_of_not_fits hread (widthAdmitted_iff.mpr ⟨hmin, hmax⟩) (by omega)
  · exact execRdBuf_of_not_fits hread (bytesAdmitted_iff.mpr hmin) (by rw [bufferBits]; omega)

end Sys2Proof.Machine
end

section
/-! What a host sees: register reads, the queue of its actions, a run that was refused, and several instances
(spec/00_scope.md, R12; spec/20_memory.md, R66; spec/60_exceptions.md, R214; spec/70_reset_and_hazards.md, R232, R242). -/

namespace Sys2Proof.Machine

/-! ## Register reads -/

section
variable {s : State} {r : RegName}

theorem serveRead_of_none (h : s.readReg r = none) : serveRead r s = .refused .noValue := by
  rw [serveRead, h]

theorem serveRead_of_some {v : ReadValue} (h : s.readReg r = some v) :
    serveRead r s = .next { s with readOut := some v } := by
  rw [serveRead, h]

/-- What a register read shows does not depend on the host's side. -/
theorem State.readReg_withPending (s : State) (l : List HostAction) (r : RegName) :
    (s.withPending l).readReg r = s.readReg r := by
  cases r <;> rfl

/-- `BS` has no value as long as it or its length has none (R20, R22). -/
theorem State.readReg_bs_eq_none_iff : s.readReg .bs = none ↔ s.bs = none ∨ s.bsLen = none := by
  cases hbs : s.bs <;> cases hlen : s.bsLen <;> simp [State.readReg, hbs, hlen]

/-- A read of `BS` gives its first `BS_LEN` bits in stream order (R9, R20). -/
theorem State.readReg_bs_eq_some_iff {v : ReadValue} :
    s.readReg .bs = some v ↔ ∃ bs len, s.bs = some bs ∧ s.bsLen = some len ∧
      v = .bits ((List.range len.toNat).map fun i => bs.getLsbD i) := by
  cases hbs : s.bs <;> cases hlen : s.bsLen <;> simp [State.readReg, hbs, hlen, bitList, eq_comm]

end

/-- Settles O9: the register holds a value or none (`readReg`), so the read is served or refused. -/
theorem hostReadGivesValueOrRefusal : Obligations.HostReadGivesValueOrRefusal := by
  unfold Obligations.HostReadGivesValueOrRefusal
  intro s r rest hp
  rw [step_of_read hp]
  cases hv : s.readReg r with
  | none =>
    refine .inl ⟨serveRead_of_none ((s.readReg_withPending rest r).trans hv), ?_⟩
    cases r with
    | bs => exact State.readReg_bs_eq_none_iff.mp hv
    | cur | rdStatus | crcValid | prStatus => cases hv
    | _ => simpa [State.readReg] using hv
  | some v =>
    refine .inr ⟨v, serveRead_of_some ((s.readReg_withPending rest r).trans hv), ?_⟩
    cases r with
    | bs => exact State.readReg_bs_eq_some_iff.mp hv
    | _ => simpa [State.readReg, eq_comm] using hv

/-! ## The queue of host actions -/

/-- A command carries the queue along (R66). -/
theorem exec_withPending (i : Instr) (s : State) (l : List HostAction) :
    exec i (s.withPending l) = mapNext (·.withPending l) (exec i s) := by
  cases i with
  | rdInit len => rw [exec, exec, execRdInit, execRdInit, mapNext_ite]; rfl
  | rdUint wid => exact withLiveReader_map rfl rfl rfl fun _ _ => by rw [mapNext_ite, mapNext_ite]; rfl
  | rdBuf nby => exact withLiveReader_map rfl rfl rfl fun _ _ => by rw [mapNext_ite, mapNext_ite]; rfl
  | rdRem => exact withLiveReader_map rfl rfl rfl fun _ _ => rfl
  | rdLen => exact withBitString_map rfl rfl rfl fun _ _ => rfl
  | lmLevel val => rfl
  | lmApply val apn => rfl
  | lmHashcount val => rfl
  | crcInit => rfl
  | crcUpdate byte => exact withCrc_map rfl rfl fun _ => rfl
  | crcFinal => exact withCrc_map rfl rfl fun _ => rfl
  | prDecode refs =>
    refine withBitString_map rfl rfl rfl fun bs len => ?_
    rw [mapNext_ite]
    cases decodeCell bs len.toNat refs.toNat <;> rfl

/-- A register read carries the queue along (R66). -/
theorem serveRead_withPending (r : RegName) (s : State) (l : List HostAction) :
    serveRead r (s.withPending l) = mapNext (·.withPending l) (serveRead r s) := by
  rw [serveRead, serveRead, State.readReg_withPending]
  cases s.readReg r <;> rfl

/-- Settles O8: a step serves the oldest action and hands the rest of the queue on, which a command
(`exec_withPending`) and a register read (`serveRead_withPending`) carry along. -/
theorem stepReadsNoLaterAction : Obligations.StepReadsNoLaterAction := by
  unfold Obligations.StepReadsNoLaterAction
  intro s a rest
  have hlong : (s.withPending (a :: rest)).pending = a :: rest := rfl
  have hshort : (s.withPending [a]).pending = [a] := rfl
  cases a with
  | reset => rw [step_of_reset hlong, step_of_reset hshort]; rfl
  | read r =>
    rw [step_of_read hlong, step_of_read hshort]
    exact serveRead_withPending r (s.withPending []) rest
  | command c p =>
    cases hc : decode c with
    | ok i =>
      rw [step_of_decode_ok hlong hc, step_of_decode_ok hshort hc]
      exact exec_withPending i ((s.withPending []).drive p) rest
    | error why => rw [step_of_decode_error hlong hc, step_of_decode_error hshort hc]; rfl

/-- A refusal comes after the same actions whatever the host would have asked after them (R242). -/
theorem runSteps_refused_append {acts : List HostAction} {s : State} {r : Refusal}
    (h : runSteps acts.length (s.withPending acts) = .refused r) (later : List HostAction) :
    runSteps (acts ++ later).length (s.withPending (acts ++ later)) = .refused r := by
  induction acts generalizing s with
  | nil => cases h
  | cons a acts ih =>
    rw [List.length_cons, runSteps, stepReadsNoLaterAction] at h
    rw [List.cons_append, List.length_cons, runSteps, stepReadsNoLaterAction]
    cases hstep : step (s.withPending [a]) with
    | next t => rw [hstep] at h; exact ih h
    | fault f => rw [hstep] at h; cases h
    | refused q => rw [hstep] at h; exact h

/-- Settles O13: the longer run is refused at the same action (`runSteps_refused_append`). -/
theorem refusedRunShowsNothing : Obligations.RefusedRunShowsNothing := by
  unfold Obligations.RefusedRunShowsNothing
  intro done later r h
  rw [observation, show runFrom (done ++ later) = .refused r from runSteps_refused_append h later]

/-! ## After reset -/

/-- What a register read shows of a block right after reset does not depend on the host's side (R40). -/
theorem readReg_reset (p : DataPort) (l : List HostAction) (o : Option ReadValue) (r : RegName) :
    State.readReg { State.reset with port := p, pending := l, readOut := o } r = State.reset.readReg r := by
  cases r <;> rfl

/-- Settles O12: at reset VALID and `CRC_VALID` are 0, which decides every precondition, and no result register holds a
value. -/
theorem afterResetOnlyInitsRun : Obligations.AfterResetOnlyInitsRun := by
  unfold Obligations.AfterResetOnlyInitsRun
  rintro s ⟨p, l, o, hs⟩
  have hstatus : s.rdStatus = 0x00#8 := by rw [hs]; rfl
  have hvalid : rdValid s.rdStatus = false := by rw [hstatus]; decide
  have hcrc : s.crcValid = false := by rw [hs]; rfl
  have hnone : ∀ r ∈ [RegName.res, .obuf, .obufLen, .crcOut, .prErrA, .prErrB, .prMask, .prLevel, .prHash 0, .prHash 1,
      .prHash 2, .prDepth 0, .prDepth 1, .prDepth 2], State.reset.readReg r = none := by decide
  refine ⟨fun len hstable => ⟨_, execRdInit_of_stable hstable⟩, ⟨_, rfl⟩, fun _ => ⟨_, rfl⟩, fun _ _ => ⟨_, rfl⟩,
    fun _ => ⟨_, rfl⟩, fun _ => withLiveReader_not_valid hvalid _, fun _ => withLiveReader_not_valid hvalid _,
    withLiveReader_not_valid hvalid _, withBitString_not_valid hvalid _, fun _ => withBitString_not_valid hvalid _,
    fun _ => withCrc_not_valid hcrc _, withCrc_not_valid hcrc _, fun r hr => ?_⟩
  have hread : s.readReg r = none := by rw [hs, readReg_reset, hnone r hr]
  rw [step_of_read (State.withPending_pending ..)]
  exact serveRead_of_none (((s.withPending _).readReg_withPending [] r).trans ((s.readReg_withPending _ r).trans hread))

/-! ## Several instances -/

/-- A step of a system that answers a next system is a step of one of its instances (R214). -/
theorem System.stepAt_next {sys sys' : System} {k : Nat} (h : sys.stepAt k = some (.next sys')) :
    ∃ s t, sys[k]? = some s ∧ step s = .next t ∧ sys' = sys.set k t := by
  unfold System.stepAt at h
  split at h
  case h_1 => cases h
  case h_2 s hs =>
    split at h
    case h_1 t ht => cases h; exact ⟨s, t, hs, ht, rfl⟩
    all_goals cases h

/-- Settles O14: the step writes place `k` of the list (`System.stepAt_next`). -/
theorem instancesAreIndependent : Obligations.InstancesAreIndependent := by
  unfold Obligations.InstancesAreIndependent
  intro sys sys' k h
  obtain ⟨s, t, hs, ht, rfl⟩ := System.stepAt_next h
  obtain ⟨hk, -⟩ := List.getElem?_eq_some_iff.mp hs
  exact ⟨⟨s, t, hs, ht, List.getElem?_set_self hk⟩, fun j hj => List.getElem?_set_ne hj.symm⟩

end Sys2Proof.Machine
end

section
/-! The step of the checksum and its two check values (spec/42_crc32c.md, R151 and R154; spec/95_test_vectors.md, X1 and
X2), and what PR.DECODE does not read (spec/43_pruned_decoder.md, R172). -/

namespace Sys2Proof.Machine

theorem crcBits_eq_iterate (n : Nat) (r : Word) : crcBits n r = crcBit^[n] r := by
  induction n generalizing r with
  | zero => rfl
  | succ n ih => exact ih (crcBit r)

/-- Settles O37: the precondition refuses or gives the register, and the byte takes it through eight single-bit steps
(`crcBits_eq_iterate`). -/
theorem crcUpdateTakesOneByte : Obligations.CrcUpdateTakesOneByte := by
  unfold Obligations.CrcUpdateTakesOneByte
  refine fun x s => ⟨fun hv => withCrc_not_valid hv _, fun r hv hr => (withCrc_valid hv hr _).trans ?_⟩
  rw [crcByte, crcBits_eq_iterate]
  rfl

/-- Settles O40: the expansion completes from every state (`runInstrs_crcBufInstrs`); the two check values are computed. -/
theorem crcBufAlwaysCompletes : Obligations.CrcBufAlwaysCompletes := by
  unfold Obligations.CrcBufAlwaysCompletes
  exact ⟨fun b s => ⟨_, runInstrs_crcBufInstrs b s, rfl⟩, by decide +kernel, by decide +kernel⟩

/-- Settles O44: PR.DECODE asks the reader for VALID and the BitString alone (`withBitString_map`), and what it commits
goes to the PR unit. -/
theorem prDecodeIgnoresReader : Obligations.PrDecodeIgnoresReader := by
  unfold Obligations.PrDecodeIgnoresReader
  intro refs s cur st a b res obuf obufLen hvalid
  refine withBitString_map hvalid rfl rfl fun bs len => ?_
  rw [mapNext_ite]
  cases decodeCell bs len.toNat refs.toNat <;> rfl

end Sys2Proof.Machine
end
